-- ==== Sys2Proof/Word.lean ====
section
/-! DEFINITION. The widths of the block's values (00_scope R6, R8, R9) and the two transport instances. -/

namespace Sys2Proof

/-- A 32-bit FLRT-OP word, and the width of the Event Set (00_scope R6, 30_encoding R101). -/
abbrev Word := BitVec 32

/-- A 16-bit value: tick counters, durations, `CMP`, metrics, result values (00_scope R6). -/
abbrev Half := BitVec 16

/-- An 8-bit value: payload and received bytes, identities, callback ids, lengths (00_scope R6). -/
abbrev Byte := BitVec 8

/-- A 16-bit data address (00_scope R6, 20_memory R81). -/
abbrev Addr := BitVec 16

/-- The sentinel transmit length that marks an empty row (00_scope R6: fixed 0xFF). -/
abbrev emptyLen : Byte := 0xFF#8

/-- The callback id that means "no callback" (00_scope R6). -/
abbrev noCallback : Byte := 0xFF#8

/-- The two Transport instances, A and B (00_scope R1: "two independent instances"). -/
inductive Bus where
  | a
  | b
  deriving DecidableEq, Repr

end Sys2Proof
end

