-- ==== Sys2Proof/Syntax.lean ====
section
/-! DEFINITION. FLRT-OP v1 as syntax: one constructor per row of spec/opcode_table.json (30_encoding R103). -/

namespace Sys2Proof

/-- The ten operations of the operation port and the two event words of the event input (30_encoding R103).
`enq` carries the payload bytes and the destination addresses; its two lengths are those of the lists (R105). -/
inductive Instr where
  /-- `REGISTER id, cb`, format TIC (40_timer R142). -/
  | register (id cb : Byte)
  /-- `START id, dur`, format TID (40_timer R143). -/
  | start (id : Byte) (dur : Half)
  /-- `STOP id`, format TI (40_timer R144). -/
  | stop (id : Byte)
  /-- `ELAPSED id`, format TI (40_timer R145). -/
  | elapsed (id : Byte)
  /-- `POST mask`, format W (41_dispatcher R171). -/
  | post (mask : Word)
  /-- `ENQ.t [b0, ...], [d0, ...]`, format Q (42_transport R192). -/
  | enq (t : Bus) (payload : List Byte) (dests : List Addr)
  /-- `RET`, format Z (43_system R231). -/
  | ret
  /-- `CSENTER`, format Z (43_system R235). -/
  | csenter
  /-- `CSEXIT s`, format S (43_system R236). -/
  | csexit (s : Bool)
  /-- `RDMETRIC sel`, format M (43_system R237). -/
  | rdmetric (sel : BitVec 2)
  /-- The event word `TICK`, format EVT (60_exceptions R258). -/
  | tick
  /-- The event word `BYTEDONE`, format EVB (42_transport R198). -/
  | bytedone (t : Bus) (v : Byte)
  deriving DecidableEq, Repr

/-- Is it an event word of the event input, which software cannot issue (30_encoding R109, R112)? -/
def Instr.isEvent : Instr → Bool
  | .tick => true
  | .bytedone _ _ => true
  | .register _ _ => false
  | .start _ _ => false
  | .stop _ => false
  | .elapsed _ => false
  | .post _ => false
  | .enq _ _ _ => false
  | .ret => false
  | .csenter => false
  | .csexit _ => false
  | .rdmetric _ => false

/-- An operation as it is presented at the operation port: one operation word and the operand words presented with it
(30_encoding R100, R110). -/
structure OpWords where
  word : Word
  operands : List Word := []
  deriving DecidableEq, Repr

/-- The words in the order they are presented (30_encoding R101). -/
def OpWords.toList (p : OpWords) : List Word := p.word :: p.operands

end Sys2Proof
end

