-- ==== Sys2Proof/WellFormed.lean ====
section
/-! DEFINITION. Which terms of Instr have an encoding: the transmit and the receive length of ENQ are 8-bit fields
(30_encoding R102, R105). Every other field's width is its type's. -/

namespace Sys2Proof

/-- The lengths of `ENQ` fit their 8-bit fields `x` and `y` (30_encoding R102). -/
def Instr.wf : Instr → Bool
  | .enq _ payload dests => decide (payload.length ≤ 255) && decide (dests.length ≤ 255)
  | .register _ _ => true
  | .start _ _ => true
  | .stop _ => true
  | .elapsed _ => true
  | .post _ => true
  | .ret => true
  | .csenter => true
  | .csexit _ => true
  | .rdmetric _ => true
  | .tick => true
  | .bytedone _ _ => true

end Sys2Proof
end

