-- ==== Sys2Proof/Decode.lean ====
section
/-! DEFINITION. FLRT-OP v1 words: the decoder of the operation port (30_encoding R110), the decoder of the event input
(R109), the encoder (R102-R108), the length function L(w) (R105) and the stream reader (R114). Every refused word is
refused by name. -/

namespace Sys2Proof

/-- Why a presentation decodes to `ILLEGAL_OP` (30_encoding R110, R112). -/
inductive DecodeError where
  /-- An opcode that R103 does not list (R112). -/
  | reservedOpcode
  /-- 0xE0 or 0xE1 on the operation port: "software cannot forge a tick or a byte completion" (R112). -/
  | eventOpcode
  /-- A bit marked `0` in R102 is set (R111). -/
  | reservedBits
  /-- The number of operand words is not L(w) (R105). -/
  | operandCount
  /-- A byte lane at or beyond x of the last data word is not zero (R107). -/
  | payloadLanes
  /-- Bits [31:16] of a destination word are not zero (R108). -/
  | destinationHigh
  /-- On the event input: neither of the two patterns of R109. -/
  | notAnEvent
  deriving DecidableEq, Repr

/-! ## Fields -/

/-- Bits [31:24] (30_encoding R101). -/
def opcodeOf (w : Word) : Byte := w.extractLsb' 24 8

/-- Bits [23:16]: the timer id `i` of TIC, TID and TI (30_encoding R102). -/
def idField (w : Word) : Byte := w.extractLsb' 16 8

/-- Bits [15:8]: the transmit length `x` of Q (30_encoding R102). -/
def txField (w : Word) : Byte := w.extractLsb' 8 8

/-- Bits [7:0]: the callback `c` of TIC, the receive length `y` of Q, the byte `v` of EVB (30_encoding R102). -/
def lowByte (w : Word) : Byte := w.extractLsb' 0 8

/-- Bits [15:0]: the duration `d` of TID, and the address of a destination word (30_encoding R102, R108). -/
def lowHalf (w : Word) : Half := w.extractLsb' 0 16

/-- Bit [16]: the instance `n` of Q and EVB, 0 for A and 1 for B (30_encoding R102, R109). -/
def busField (w : Word) : Bus := if w.getLsbD 16 then .b else .a

/-! ## Lengths (30_encoding R105, R114) -/

/-- `ceil(x/4)`, the number of data words of an `ENQ` with x payload bytes. -/
def dataWords (x : Nat) : Nat := (x + 3) / 4

/-- `L(w)`: how many operand words follow the operation word (30_encoding R105). -/
def operandCount (w : Word) : Nat :=
  if opcodeOf w = 0x10#8 then 1
  else if opcodeOf w = 0x20#8 then dataWords (txField w).toNat + (lowByte w).toNat
  else 0

/-- The stream reader of 30_encoding R114: it reads the operation word, computes L(w) and reads exactly that many
words. None when the stream holds fewer. -/
def readStream : List Word → Option (OpWords × List Word)
  | [] => none
  | w :: rest =>
    if rest.length < operandCount w then none
    else some ({ word := w, operands := rest.take (operandCount w) }, rest.drop (operandCount w))

/-! ## ENQ operand words (30_encoding R107, R108) -/

/-- Payload byte j: bits `[8*(j mod 4)+7 : 8*(j mod 4)]` of data word `j div 4` (30_encoding R107). -/
def payloadByte (ops : List Word) (j : Nat) : Byte :=
  (ops.getD (j / 4) 0#32).extractLsb' (8 * (j % 4)) 8

/-- The x payload bytes (30_encoding R107). -/
def unpackPayload (x : Nat) (ops : List Word) : List Byte :=
  (List.range x).map (payloadByte ops)

/-- The reserved lanes of the last data word are zero (30_encoding R107, R110). -/
def lanesClear (x : Nat) (ops : List Word) : Bool :=
  decide (x % 4 = 0) || decide (ops.getD (dataWords x - 1) 0#32 >>> (8 * (x % 4)) = 0#32)

/-- The destination addresses of destination words (30_encoding R108). -/
def unpackDests (ops : List Word) : List Addr := ops.map lowHalf

/-- Bits [31:16] of every destination word are zero (30_encoding R108, R110). -/
def destsClear (ops : List Word) : Bool := ops.all fun d => decide (d.extractLsb' 16 16 = 0#16)

/-! ## The decoders -/

/-- The bits marked `0` in the format of an operation's opcode (30_encoding R102, R110); none for an opcode that is no
operation's. -/
def reservedBits (opc : Byte) : Option Word :=
  if opc = 0x01#8 then some 0x0000FF00#32
  else if opc = 0x02#8 then some 0x00000000#32
  else if opc = 0x03#8 then some 0x0000FFFF#32
  else if opc = 0x04#8 then some 0x0000FFFF#32
  else if opc = 0x10#8 then some 0x00FFFFFF#32
  else if opc = 0x20#8 then some 0x00FE0000#32
  else if opc = 0x30#8 then some 0x00FFFFFF#32
  else if opc = 0x31#8 then some 0x00FFFFFF#32
  else if opc = 0x32#8 then some 0x00FFFFFE#32
  else if opc = 0x40#8 then some 0x00FFFFFC#32
  else none

/-- `ENQ` from its operand words: the lane check, then the destination check, then the operands (30_encoding R110). -/
def decodeEnq (w : Word) (ops : List Word) : Except DecodeError Instr :=
  let x := (txField w).toNat
  let destWords := ops.drop (dataWords x)
  if lanesClear x ops then
    if destsClear destWords then .ok (.enq (busField w) (unpackPayload x ops) (unpackDests destWords))
    else .error .destinationHigh
  else .error .payloadLanes

/-- The fields of the format that the opcode selects (30_encoding R102, R103). -/
def decodeFields (w : Word) (ops : List Word) : Except DecodeError Instr :=
  if opcodeOf w = 0x01#8 then .ok (.register (idField w) (lowByte w))
  else if opcodeOf w = 0x02#8 then .ok (.start (idField w) (lowHalf w))
  else if opcodeOf w = 0x03#8 then .ok (.stop (idField w))
  else if opcodeOf w = 0x04#8 then .ok (.elapsed (idField w))
  else if opcodeOf w = 0x10#8 then .ok (.post (ops.getD 0 0#32))
  else if opcodeOf w = 0x20#8 then decodeEnq w ops
  else if opcodeOf w = 0x30#8 then .ok .ret
  else if opcodeOf w = 0x31#8 then .ok .csenter
  else if opcodeOf w = 0x32#8 then .ok (.csexit (w.getLsbD 0))
  else if opcodeOf w = 0x40#8 then .ok (.rdmetric (w.extractLsb' 0 2))
  else .error .reservedOpcode

/-- `decode(w, ops)` of 30_encoding R110: every presentation decodes to one operation or, by name, to `ILLEGAL_OP`. -/
def decodeOp (p : OpWords) : Except DecodeError Instr :=
  match reservedBits (opcodeOf p.word) with
  | none =>
    if opcodeOf p.word = 0xE0#8 ∨ opcodeOf p.word = 0xE1#8 then .error .eventOpcode
    else .error .reservedOpcode
  | some reserved =>
    if p.word &&& reserved ≠ 0#32 then .error .reservedBits
    else if p.operands.length ≠ operandCount p.word then .error .operandCount
    else decodeFields p.word p.operands

/-- The event input accepts exactly the two patterns of 30_encoding R109. -/
def decodeEvent (w : Word) : Except DecodeError Instr :=
  if w = 0xE0000000#32 then .ok .tick
  else if opcodeOf w = 0xE1#8 ∧ w &&& 0x00FEFF00#32 = 0#32 then .ok (.bytedone (busField w) (lowByte w))
  else .error .notAnEvent

/-! ## The encoder -/

/-- A word from its four bytes, the first at [31:24] (30_encoding R101). -/
def wordOfBytes (b3 b2 b1 b0 : Byte) : Word := b3 ++ b2 ++ b1 ++ b0

/-- The byte that holds the instance bit `n` at its bit 0 (30_encoding R102: bits [23:16] of Q and EVB). -/
def busByte : Bus → Byte
  | .a => 0x00#8
  | .b => 0x01#8

/-- Payload bytes packed four a word, little-endian by lane, the unused high lanes zero (30_encoding R107). -/
def packPayload : List Byte → List Word
  | [] => []
  | [b0] => [wordOfBytes 0#8 0#8 0#8 b0]
  | [b0, b1] => [wordOfBytes 0#8 0#8 b1 b0]
  | [b0, b1, b2] => [wordOfBytes 0#8 b2 b1 b0]
  | b0 :: b1 :: b2 :: b3 :: rest => wordOfBytes b3 b2 b1 b0 :: packPayload rest

/-- One destination word an address (30_encoding R108). -/
def packDests (dests : List Addr) : List Word := dests.map fun d => (0#16 ++ d : Word)

/-- The words of a well-formed instruction (30_encoding R102, R103, R105-R109). -/
def encode : Instr → OpWords
  | .register id cb => { word := wordOfBytes 0x01#8 id 0x00#8 cb }
  | .start id dur => { word := 0x02#8 ++ id ++ dur }
  | .stop id => { word := wordOfBytes 0x03#8 id 0x00#8 0x00#8 }
  | .elapsed id => { word := wordOfBytes 0x04#8 id 0x00#8 0x00#8 }
  | .post mask => { word := 0x10000000#32, operands := [mask] }
  | .enq t payload dests =>
    { word := wordOfBytes 0x20#8 (busByte t) (BitVec.ofNat 8 payload.length) (BitVec.ofNat 8 dests.length)
      operands := packPayload payload ++ packDests dests }
  | .ret => { word := 0x30000000#32 }
  | .csenter => { word := 0x31000000#32 }
  | .csexit s => { word := wordOfBytes 0x32#8 0x00#8 0x00#8 (if s then 0x01#8 else 0x00#8) }
  | .rdmetric sel => { word := wordOfBytes 0x40#8 0x00#8 0x00#8 (0#6 ++ sel) }
  | .tick => { word := 0xE0000000#32 }
  | .bytedone t v => { word := wordOfBytes 0xE1#8 (busByte t) 0x00#8 v }

/-- The decoder of the channel an instruction belongs to (30_encoding R100). -/
def decodeOnItsChannel (i : Instr) (p : OpWords) : Except DecodeError Instr :=
  if i.isEvent then decodeEvent p.word else decodeOp p

/-! ## The numbering of spec/opcode_table.json -/

/-- The presentation whose bits are w, bit 0 the least significant of the operation word and each later word's bits
counting on from it, every bit above nbits zero; it has as many operand words as L(w) says (log 10). -/
def tableWords (nbits w : Nat) : OpWords :=
  let bits := w % 2 ^ nbits
  let first : Word := BitVec.ofNat 32 bits
  { word := first
    operands := (List.range (operandCount first)).map fun k => BitVec.ofNat 32 (bits / 2 ^ (32 * (k + 1))) }

/-- The instruction the decoders read from an instruction whose bits are w: the operation port's decoder, and for an
event opcode, which the operation port refuses, the event input's (30_encoding R100). -/
def decodeTableWord (nbits w : Nat) : Option Instr :=
  match decodeOp (tableWords nbits w) with
  | .ok i => some i
  | .error _ =>
    match decodeEvent (tableWords nbits w).word with
    | .ok i => some i
    | .error _ => none

end Sys2Proof
end

