-- ==== Sys2Proof/Config.lean ====
section
/-! DEFINITION. The implementation parameters of 00_scope R6, as plain data. They are fixed for a run and no step
writes them (10_state R31). The model takes them as a field of its State, so a claim about every State is a claim about
every configuration (log 1). What a legal configuration is (R33) stands in Machine/Operands.lean as `Config.wf`. -/

namespace Sys2Proof

/-- The parameters of one Transport instance (00_scope R6). -/
structure BusConfig where
  /-- `R_ROWS[t]`, the number of rows of the ring. -/
  rows : Nat
  /-- `K_ROW[t]`, the row capacity in bytes. -/
  rowCap : Nat
  /-- `FILL[t]`, the byte loaded to clock in each received byte. -/
  fill : Byte
  /-- `EV_DONE[t]`, the bit index of the completion event. -/
  evDone : Fin 32
  /-- `FAIR_PER[t]`, whether the peripheral is assumed weakly fair. -/
  fair : Bool
  deriving DecidableEq, Repr

/-- The parameters of 00_scope R6. `HANDLER` is a list of (bit, handler id) pairs and `DEST_OK` a list of closed
address ranges: every function and every predicate the rule allows can be written so (log 13). -/
structure Config where
  /-- `N_TIMERS`. -/
  nTimers : Nat
  busA : BusConfig
  busB : BusConfig
  /-- `DEFINED_MASK`. -/
  definedMask : Word
  /-- `HANDLER(b)`. -/
  handlers : List (Fin 32 × Byte)
  /-- `P_TICK`. -/
  pTick : Half
  /-- `DEST_OK(a)`: the valid destinations, as ranges `lo ≤ a ≤ hi`. -/
  destRanges : List (Addr × Addr)
  /-- `FAIR_TICK`. -/
  fairTick : Bool
  deriving DecidableEq, Repr

/-- The test configuration TC of 00_scope R7 ("a test fixture", log 1). The fairness parameters have R6's default. -/
def Config.tc : Config where
  nTimers := 4
  busA := { rows := 2, rowCap := 8, fill := 0x00#8, evDone := 0, fair := false }
  busB := { rows := 2, rowCap := 8, fill := 0x00#8, evDone := 1, fair := false }
  definedMask := 0x0000000F#32
  handlers := [(0, 0x00#8), (1, 0x01#8), (2, 0x02#8), (3, 0x03#8)]
  pTick := 1000#16
  destRanges := [(0x0100#16, 0x01FF#16)]
  fairTick := false

end Sys2Proof
end

