-- ==== Sys2Proof/Machine/State.lean ====
section
/-! DEFINITION. The state of the block (10_state R32): every element of R37 to R58 under the spec's name, as plain data,
with the reset values of R59. The last fields are the model's own: the configuration, the program, and the schedule that
says which agent moves next (logs 1, 3, 9). -/

namespace Sys2Proof.Machine

/-! ## The parts -/

/-- A timer slot (10_state R40). -/
structure Slot where
  /-- `reg`: the slot has been assigned to an identity. -/
  reg : Bool
  /-- `id`: the timer identity handle. -/
  id : Byte
  /-- `cb`: the callback variant; 0xFF means no callback. -/
  cb : Byte
  /-- `run`: the running flag. -/
  run : Bool
  elapsed : Half
  remaining : Half
  deriving DecidableEq, Repr

/-- The framing state machine of a Transport instance (10_state R43). -/
inductive Phase where
  | idle
  | sending
  | receiving
  deriving DecidableEq, Repr

/-- A row of the command ring (10_state R44). -/
structure Row where
  /-- `tx_len`; 0xFF (`EMPTY`) marks an empty row. -/
  txLen : Byte
  /-- `rx_len`. -/
  rxLen : Byte
  data : List Byte
  dest : List Addr
  deriving DecidableEq, Repr

/-- A Transport instance `T[t]` (10_state R43). -/
structure Transport where
  phase : Phase
  /-- `wr`, the producer cursor. -/
  wr : Nat
  /-- `rd`, the consumer cursor. -/
  rd : Nat
  /-- `tx_idx`, the transmit cursor. -/
  txIdx : Nat
  /-- `rx_idx`, the receive cursor. -/
  rxIdx : Nat
  /-- `row[0..R_ROWS[t]-1]`. -/
  rows : List Row
  /-- `infl`, the in-flight byte. -/
  infl : Option Byte
  /-- `BC_PEND`, the byte-complete interrupt pending flag (10_state R38). -/
  bcPend : Bool
  /-- `RXDATA`, the last received byte. -/
  rxData : Byte
  deriving DecidableEq, Repr

/-- The error metrics `MET[0..3]` (10_state R45). -/
structure Metrics where
  /-- `MET[0]`, `TIMER_FULL`. -/
  timerFull : Half
  /-- `MET[1]`, `CONFIG`. -/
  config : Half
  /-- `MET[2]`, `ENQ_FULL_A`. -/
  enqFullA : Half
  /-- `MET[3]`, `ENQ_FULL_B`. -/
  enqFullB : Half
  deriving DecidableEq, Repr

/-- The main-context state (10_state R50). -/
inductive MainCtx where
  | init
  | scan (b : Fin 32)
  | handler (b : Fin 32)
  deriving DecidableEq, Repr

/-- The interrupt-context state (10_state R51). -/
inductive IsrCtx where
  | none
  | tick (i : Nat)
  | callback (i : Nat)
  deriving DecidableEq, Repr

/-- `FAULT`: a set of the three fault kinds of 60_exceptions R254, one Bool a kind (10_state R49). -/
structure FaultSet where
  unmappedEvent : Bool
  badDest : Bool
  leftMasked : Bool
  deriving DecidableEq, Repr

/-- A raised fault: its kind with the info that R254 says is recorded. -/
inductive FaultInfo where
  /-- `UNMAPPED_EVENT`, with the mask. -/
  | unmappedEvent (mask : Word)
  /-- `BAD_DEST`, with the address. -/
  | badDest (a : Addr)
  /-- `LEFT_MASKED`, with the bit. -/
  | leftMasked (b : Fin 32)
  deriving DecidableEq, Repr

/-- The status codes of 30_encoding R104; the reserved codes 0x07..0xFF are never returned. -/
inductive Status where
  | ok
  | resourceExhausted
  | notFound
  | configurationError
  | badLength
  | illegalOp
  | wrongContext
  deriving DecidableEq, Repr

/-- The `op` of a `Result` entry: the operation's name, or `ILLEGAL` (10_state R58, 43_system R238). `RET` has no
result (30_encoding R104). -/
inductive OpName where
  | register
  | start
  | stop
  | elapsed
  | post
  | enq
  | csenter
  | csexit
  | rdmetric
  | illegal
  deriving DecidableEq, Repr

/-- The entries of the trace (10_state R58). -/
inductive TraceEntry where
  | dispatch (b : Fin 32) (h : Byte)
  | callback (cb id : Byte)
  | wire (t : Bus) (x : Byte)
  | rx (t : Bus) (v : Byte)
  | mem (a : Addr) (v : Byte)
  | result (op : OpName) (status : Status) (value : Half)
  | fault (f : FaultInfo)
  deriving DecidableEq, Repr

/-- The interrupt sources (60_exceptions R257). -/
inductive IrqSource where
  | tick
  | bc (t : Bus)
  deriving DecidableEq, Repr

/-- Data memory: the bytes whose value is known, as (address, byte) pairs with the addresses strictly rising. An address
that is not listed holds the byte the launch supplied, which the model does not know (10_state R57, log 6). -/
abbrev Memory := List Host.Cell

/-! ## The model's own parts -/

/-- A routine: a straight-line list of operations (70_reset_and_hazards R293). -/
abbrev Routine := List OpWords

/-- A program (70_reset_and_hazards R293): an initialisation routine, one routine for each handler id and one for each
callback id in use. -/
structure Program where
  init : Routine
  handlers : List (Byte × Routine)
  callbacks : List (Byte × Routine)
  deriving DecidableEq, Repr

/-- One entry of the schedule: the agent that takes its step next, with the step's free values (10_state R30, R52; log
3), or an input from outside the block (logs 7, 8). -/
inductive Move where
  /-- `SW` without a program: it presents this operation, its free choice (10_state R30, 70_reset_and_hazards R293). -/
  | software (p : OpWords)
  /-- `SW` under the program: the next operation of the current routine (70_reset_and_hazards R293). -/
  | routine
  /-- `DISP` (41_dispatcher R173). -/
  | dispatcher
  /-- `IRQ`, taking this source; which pending one is a free choice (60_exceptions R261). -/
  | interrupt (src : IrqSource)
  /-- `TSEQ` (40_timer R147, R149). -/
  | tickScan
  /-- A word on the event input: `TICKSRC` or `PER[t](v)`, the byte v a draw (30_encoding R109, 42_transport R198). -/
  | event (w : Word)
  /-- Software or firmware outside the block writes a byte of data memory (20_memory R81, R88; log 7). -/
  | externalWrite (a : Addr) (v : Byte)
  /-- The reset from outside (70_reset_and_hazards R291), with the data memory bytes the launch supplies (10_state R59;
  log 8). -/
  | externalReset (launch : List (Addr × Byte))
  deriving DecidableEq, Repr

/-! ## The state -/

/-- The complete state of the block (10_state R32), then the model's own fields. -/
structure State where
  /-- The configuration (00_scope R6). No step writes it (10_state R31). -/
  cfg : Config
  /-- `E` (10_state R39). -/
  events : Word
  /-- `IE` (10_state R37). -/
  ie : Bool
  /-- `TICK_PEND` (10_state R38). -/
  tickPend : Bool
  /-- `CMP` (10_state R46). -/
  cmp : Half
  /-- `slot[]` (10_state R40). -/
  slots : List Slot
  /-- `nreg` (10_state R41). -/
  nreg : Nat
  /-- `T[A]` (10_state R43). -/
  busA : Transport
  /-- `T[B]` (10_state R43). -/
  busB : Transport
  /-- `MET[]` (10_state R45). -/
  met : Metrics
  /-- `main` (10_state R50). -/
  main : MainCtx
  /-- `isr` (10_state R51). -/
  isr : IsrCtx
  /-- `FAULT` (10_state R49). -/
  fault : FaultSet
  /-- `DM` (10_state R57). -/
  dm : Memory
  /-- `trace` (10_state R58), oldest entry first. -/
  trace : List TraceEntry
  /-- The program that fixes what `SW` does, or none (70_reset_and_hazards R293; log 9). -/
  program : Option Program
  /-- The main context's position in its routine (70_reset_and_hazards R293). -/
  mainPos : Nat
  /-- The callback's position in its routine (70_reset_and_hazards R293). -/
  cbPos : Nat
  /-- The schedule: the moves to come, next one first (log 3). -/
  moves : List Move
  deriving DecidableEq, Repr

/-- Why the machine stops. -/
inductive Fault where
  /-- Raised by `step` when `FAULT` is not empty: "no agent has a step" (10_state R49, 60_exceptions R255). The state in
  which the block stopped is the step's argument. Safe: the spec gives no further step (log 5). -/
  | stopped
  deriving DecidableEq, Repr

/-- Why a step has no meaning. -/
inductive Refusal where
  /-- Raised by an arm of `exec` whose instruction has no meaning yet. Safe. -/
  | notModelled (mnemonic : String)
  /-- Raised by `step`: the configuration is not well-formed, and "the model is defined only for well-formed
  configurations" (10_state R33). Safe (log 2). -/
  | illFormedConfig
  /-- Raised by `step`: the schedule holds no move. Safe (log 3). -/
  | noMove
  /-- Raised by `step` for a scheduled move whose agent has no enabled step (10_state R52). Safe (log 4). -/
  | notEnabled
  /-- Raised by `step` for an event word that is neither pattern of 30_encoding R109, which no hardware agent produces.
  Safe (log 4). -/
  | notAnEvent
  /-- Raised by `step` when the program has no operation at the current position (70_reset_and_hazards R293). Safe (log
  9). -/
  | noOperation
  /-- Raised by `RET` where no software routine runs, which 43_system R231 leaves no case for. Safe (log 15). -/
  | noSoftwareContext
  /-- Raised by `BYTEDONE` with no byte in flight, when the peripheral has no step (42_transport R198). Safe (log 15). -/
  | nothingInFlight
  deriving DecidableEq, Repr

/-! ## Reset (10_state R59, 70_reset_and_hazards R290) -/

/-- A slot at reset (10_state R59). -/
def Slot.blank : Slot :=
  { reg := false, id := 0x00#8, cb := noCallback, run := false, elapsed := 0#16, remaining := 0#16 }

/-- A row of capacity K at reset (10_state R59). -/
def Row.blank (k : Nat) : Row :=
  { txLen := emptyLen, rxLen := 0x00#8, data := List.replicate k 0x00#8, dest := List.replicate k 0x0000#16 }

/-- A Transport instance at reset (10_state R59). -/
def Transport.blank (c : BusConfig) : Transport :=
  { phase := .idle, wr := 0, rd := 0, txIdx := 0, rxIdx := 0
    rows := List.replicate c.rows (Row.blank c.rowCap)
    infl := none, bcPend := false, rxData := 0x00#8 }

/-- The metrics at reset (10_state R45). -/
def Metrics.zero : Metrics := { timerFull := 0#16, config := 0#16, enqFullA := 0#16, enqFullB := 0#16 }

/-- No fault (10_state R49). -/
def FaultSet.empty : FaultSet := { unmappedEvent := false, badDest := false, leftMasked := false }

/-- The state after reset in configuration c, with the data memory bytes and the program the launch supplies (10_state
R59). -/
def State.resetWith (c : Config) (launch : Memory) (p : Option Program) : State :=
  { cfg := c
    events := 0x00000000#32
    ie := false
    tickPend := false
    cmp := c.pTick
    slots := List.replicate c.nTimers Slot.blank
    nreg := 0
    busA := Transport.blank c.busA
    busB := Transport.blank c.busB
    met := Metrics.zero
    main := .init
    isr := .none
    fault := FaultSet.empty
    dm := launch
    trace := []
    program := p
    mainPos := 0
    cbPos := 0
    moves := [] }

/-- The machine right after reset: in the test configuration TC (00_scope R7, log 1), no data memory byte known (log 6),
no program (log 9), no move scheduled (log 3). -/
def State.reset : State := State.resetWith Config.tc [] none

end Sys2Proof.Machine
end

