-- ==== Sys2Proof/Machine/Flags.lean ====
section
/-! DEFINITION. The flags: the event bits, the pending flags, the metrics with their saturation, the fault set and the
numeric codes (00_scope R9; 10_state R37-R39, R45, R49; 30_encoding R104). -/

namespace Sys2Proof.Machine

/-- `sat_16(v + 1)`: a counter at 0xFFFF stays there (10_state R45, 00_scope R9). -/
def satInc (v : Half) : Half := if v = 0xFFFF#16 then 0xFFFF#16 else v + 1#16

/-! ## The Event Set -/

/-- The value `1 << b` of event bit b (00_scope R8). -/
def eventBit (b : Fin 32) : Word := BitVec.twoPow 32 b.val

/-- `E <- E | mask` (41_dispatcher R171). -/
def State.orEvents (mask : Word) (s : State) : State := { s with events := s.events ||| mask }

/-- `E[b] <- 0` (41_dispatcher R173). -/
def State.clearEvent (b : Fin 32) (s : State) : State := { s with events := s.events &&& ~~~(eventBit b) }

/-- `PostInternal(b)` (41_dispatcher R172). -/
def State.postInternal (b : Fin 32) (s : State) : State := s.orEvents (eventBit b)

/-- `DEFINED_MASK[b] = 1 and E[b] = 1` (41_dispatcher R173). -/
def State.eventReady (s : State) (b : Fin 32) : Bool :=
  s.cfg.definedMask.getLsbD b.val && s.events.getLsbD b.val

/-- The mask has a bit outside `DEFINED_MASK` (41_dispatcher R171). -/
def State.unmapped (s : State) (mask : Word) : Bool := decide (mask &&& ~~~s.cfg.definedMask ≠ 0#32)

/-! ## Metrics -/

/-- The four metrics by name (10_state R45). -/
inductive Metric where
  | timerFull
  | config
  | enqFullA
  | enqFullB
  deriving DecidableEq, Repr

/-- `MET[2 + n]` (42_transport R192). -/
def Metric.enqFull : Bus → Metric
  | .a => .enqFullA
  | .b => .enqFullB

/-- The metric that a 2-bit selector names (30_encoding R115, 43_system R237). -/
def Metric.ofSelector (sel : BitVec 2) : Metric :=
  if sel = 0#2 then .timerFull else if sel = 1#2 then .config else if sel = 2#2 then .enqFullA else .enqFullB

/-- `MET[m]`. -/
def Metrics.get (m : Metrics) : Metric → Half
  | .timerFull => m.timerFull
  | .config => m.config
  | .enqFullA => m.enqFullA
  | .enqFullB => m.enqFullB

/-- `MET[m] <- sat_16(MET[m] + 1)` (10_state R45). -/
def Metrics.bump (m : Metrics) : Metric → Metrics
  | .timerFull => { m with timerFull := satInc m.timerFull }
  | .config => { m with config := satInc m.config }
  | .enqFullA => { m with enqFullA := satInc m.enqFullA }
  | .enqFullB => { m with enqFullB := satInc m.enqFullB }

/-- Count one refusal (60_exceptions R253). -/
def State.count (m : Metric) (s : State) : State := { s with met := s.met.bump m }

/-! ## The fault set -/

/-- Add a kind to `FAULT` (60_exceptions R255). -/
def FaultSet.add (f : FaultSet) : FaultInfo → FaultSet
  | .unmappedEvent _ => { f with unmappedEvent := true }
  | .badDest _ => { f with badDest := true }
  | .leftMasked _ => { f with leftMasked := true }

/-- `FAULT != {}` (10_state R49). -/
def FaultSet.any (f : FaultSet) : Bool := f.unmappedEvent || f.badDest || f.leftMasked

/-! ## Numeric codes -/

/-- The status code (30_encoding R104). -/
def Status.code : Status → Byte
  | .ok => 0x00#8
  | .resourceExhausted => 0x01#8
  | .notFound => 0x02#8
  | .configurationError => 0x03#8
  | .badLength => 0x04#8
  | .illegalOp => 0x05#8
  | .wrongContext => 0x06#8

/-- The result word `{code[7:0], 0x00, value[15:0]}` (30_encoding R104). -/
def resultWord (st : Status) (value : Half) : Word := st.code ++ (0x00#8 : Byte) ++ value

/-- `zext_16` of a one-bit value (00_scope R9). -/
def boolHalf (b : Bool) : Half := if b then 1#16 else 0#16

end Sys2Proof.Machine
end

