-- ==== Sys2Proof/Machine/Operands.lean ====
section
/-! DEFINITION. What an operand names: the configuration's entries and its well-formedness (10_state R33), the Transport
instances, their rows and cursors (R43, R44), the timer slots and the lookup of an identity (40_timer R141). Reading a row
or a slot beyond its array gives a blank one and writing there does nothing; no rule reaches such an index (log 11). -/

namespace Sys2Proof

/-- The parameters of instance t. -/
def Config.bus (c : Config) : Bus → BusConfig
  | .a => c.busA
  | .b => c.busB

/-- `HANDLER(b)` (10_state R33). A well-formed configuration has exactly one entry for each defined bit. -/
def Config.handler (c : Config) (b : Fin 32) : Byte := (c.handlers.lookup b).getD 0x00#8

/-- `DEST_OK(a)` (00_scope R6). -/
def Config.destOk (c : Config) (a : Addr) : Bool :=
  c.destRanges.any fun r => decide (r.1.toNat ≤ a.toNat) && decide (a.toNat ≤ r.2.toNat)

/-- The ranges of 00_scope R6 for one instance. -/
def BusConfig.inRange (c : BusConfig) : Bool :=
  decide (1 ≤ c.rows) && decide (c.rows ≤ 255) && decide (1 ≤ c.rowCap) && decide (c.rowCap ≤ 254)

/-- Bit b has exactly one handler (10_state R33: "every defined bit has exactly one handler"). -/
def Config.handledOnce (c : Config) (b : Fin 32) : Bool :=
  decide ((c.handlers.filter fun h => decide (h.1 = b)).length = 1)

/-- A configuration is well-formed (10_state R33): every parameter in its range, the two completion bits distinct and
defined, and one handler for each defined bit. -/
def Config.wf (c : Config) : Bool :=
  decide (1 ≤ c.nTimers) && decide (c.nTimers ≤ 255) && c.busA.inRange && c.busB.inRange
    && decide (c.pTick ≠ 0#16)
    && decide (c.busA.evDone ≠ c.busB.evDone)
    && c.definedMask.getLsbD c.busA.evDone.val && c.definedMask.getLsbD c.busB.evDone.val
    && (List.finRange 32).all fun b => !c.definedMask.getLsbD b.val || c.handledOnce b

namespace Machine

/-- `inc_R(i) = (i + 1) mod R` (00_scope R9). -/
def ringInc (r i : Nat) : Nat := (i + 1) % r

/-! ## Transport instances -/

/-- `T[t]`. -/
def State.xport (s : State) : Bus → Transport
  | .a => s.busA
  | .b => s.busB

/-- Replace `T[t]`. -/
def State.setXport (s : State) (t : Bus) (x : Transport) : State :=
  match t with
  | .a => { s with busA := x }
  | .b => { s with busB := x }

/-- Change `T[t]`. -/
def State.modXport (s : State) (t : Bus) (f : Transport → Transport) : State := s.setXport t (f (s.xport t))

/-- `T[t].row[r]`; beyond the ring, an empty row (log 11). -/
def Transport.row (x : Transport) (r : Nat) : Row := x.rows.getD r (Row.blank 0)

/-- Replace `T[t].row[r]`. -/
def Transport.setRow (x : Transport) (r : Nat) (w : Row) : Transport := { x with rows := x.rows.set r w }

/-- `tx_len != EMPTY` (10_state R44). -/
def Row.occupied (w : Row) : Bool := decide (w.txLen ≠ emptyLen)

/-- `occupied(t, r)` (42_transport R191). -/
def Transport.occupied (x : Transport) (r : Nat) : Bool := (x.row r).occupied

/-- The ring is full: row `wr` is occupied (42_transport R191). -/
def Transport.full (x : Transport) : Bool := x.occupied x.wr

/-- How many rows are occupied: the `n` of 10_state R48. -/
def Transport.count (x : Transport) : Nat := (x.rows.filter Row.occupied).length

/-- The first entries replaced by the new ones; the entries beyond keep their stale values (42_transport R193). -/
def overlay {α : Type} (new old : List α) : List α := new ++ old.drop new.length

/-- The row write of `ENQ` (42_transport R192, R193). -/
def Row.fill (w : Row) (payload : List Byte) (dests : List Addr) : Row :=
  { txLen := BitVec.ofNat 8 payload.length
    rxLen := BitVec.ofNat 8 dests.length
    data := overlay payload w.data
    dest := overlay dests w.dest }

/-- `data[j]` of a row. -/
def Row.dataAt (w : Row) (j : Nat) : Byte := w.data.getD j 0x00#8

/-- `dest[j]` of a row. -/
def Row.destAt (w : Row) (j : Nat) : Addr := w.dest.getD j 0x0000#16

/-! ## Timer slots -/

/-- `slot[i]`; beyond the pool, a blank slot (log 11). -/
def State.slot (s : State) (i : Nat) : Slot := s.slots.getD i Slot.blank

/-- Replace `slot[i]`. -/
def State.setSlot (s : State) (i : Nat) (w : Slot) : State := { s with slots := s.slots.set i w }

/-- `find(id)`: the slot with `i < nreg` and `slot[i].id = id`, or none (40_timer R141). -/
def State.find (s : State) (id : Byte) : Option Nat :=
  (s.slots.take s.nreg).findIdx? fun w => decide (w.id = id)

end Machine

end Sys2Proof
end

