-- ==== Sys2Proof/Machine/Ops.lean ====
section
/-! DEFINITION. The shared operations: data memory (20_memory R80), the trace (10_state R58), a status (30_encoding R104),
raising a fault (60_exceptions R255), taking an interrupt (R262) and returning from one (R263). -/

namespace Sys2Proof.Machine

/-! ## Data memory -/

/-- The byte at an address, or none where the model does not know it (log 6). -/
def Memory.read : Memory → Nat → Option Byte
  | [], _ => none
  | (k, v) :: m, a => if k = a then some v else Memory.read m a

/-- Write a byte, keeping the addresses strictly rising. -/
def Memory.write : Memory → Nat → Byte → Memory
  | [], a, v => [(a, v)]
  | (k, w) :: m, a, v =>
    if a < k then (a, v) :: (k, w) :: m
    else if a = k then (a, v) :: m
    else (k, w) :: Memory.write m a v

/-- Every address is above the bound `lo`, below 2^16, and they strictly rise. -/
def Memory.wfFrom : Nat → Memory → Bool
  | _, [] => true
  | lo, (k, _) :: m => decide (lo ≤ k) && decide (k < 65536) && Memory.wfFrom (k + 1) m

/-- The canonical form: addresses below 2^16 (20_memory R81), strictly rising. An unlisted address reads as none, so no
entry can equal what an unlisted address reads as. -/
def Memory.wf (m : Memory) : Bool := Memory.wfFrom 0 m

/-- The data memory a launch supplies, from any list of bytes; a later entry wins (10_state R57). -/
def Memory.ofLaunch (cells : List (Addr × Byte)) : Memory :=
  cells.foldl (fun m c => Memory.write m c.1.toNat c.2) []

/-- The byte of `DM` at an address (20_memory R81). -/
def State.readByte (s : State) (a : Nat) : Option Byte := Memory.read s.dm a

/-! ## The trace and the result -/

/-- `emit` (00_scope R11). -/
def State.emit (e : TraceEntry) (s : State) : State := { s with trace := s.trace ++ [e] }

/-- `return Status(code, value)` of operation op (30_encoding R104). -/
def State.finish (op : OpName) (st : Status) (value : Half) (s : State) : State := s.emit (.result op st value)

/-- The result word that a trace entry delivers to the issuing software (30_encoding R104; log 14). -/
def TraceEntry.word : TraceEntry → Option Word
  | .result _ st value => some (resultWord st value)
  | .dispatch _ _ => none
  | .callback _ _ => none
  | .wire _ _ => none
  | .rx _ _ => none
  | .mem _ _ => none
  | .fault _ => none

/-- The result word delivered by the last step, when that step was an operation that ended with a status: `Result` is the
last entry of its step (30_encoding R104; log 14). -/
def State.delivered (s : State) : Option Word := s.trace.getLast?.bind TraceEntry.word

/-! ## Faults -/

/-- `raise Fault(kind, info)`: the kind is added to `FAULT` and the entry appended to the trace; the caller performs
nothing more of its step (60_exceptions R255). -/
def State.raiseFault (f : FaultInfo) (s : State) : State :=
  { s.emit (.fault f) with fault := s.fault.add f }

/-- `MemWrite(a, 1, v)` (20_memory R80): `.error` is the state at the raise, where the step ends. -/
def State.memWrite (a : Addr) (v : Byte) (s : State) : Except State State :=
  if s.cfg.destOk a then .ok ({ s with dm := Memory.write s.dm a.toNat v }.emit (.mem a v))
  else .error (s.raiseFault (.badDest a))

/-! ## Interrupts -/

/-- The source's pending flag (60_exceptions R257). -/
def State.pending (s : State) : IrqSource → Bool
  | .tick => s.tickPend
  | .bc t => (s.xport t).bcPend

/-- Interrupt entry (60_exceptions R262): the flag and `IE` are cleared, and a tick goes to `Tick(0)`. The byte-complete
ISR has no value of `isr` (10_state R51). -/
def State.enterInterrupt (src : IrqSource) (s : State) : State :=
  match src with
  | .tick => { s with tickPend := false, ie := false, isr := .tick 0 }
  | .bc t => { s.modXport t (fun x => { x with bcPend := false }) with ie := false }

/-- Interrupt return (60_exceptions R263): `isr <- None`, which it already is in the byte-complete ISR, and `IE <- 1`. -/
def State.returnInterrupt (s : State) : State := { s with isr := .none, ie := true }

end Sys2Proof.Machine
end

