-- ==== Sys2Proof/Machine/Timer.lean ====
section
/-! DEFINITION. The Timer Engine (40_timer): REGISTER, START, STOP, ELAPSED and the tick handler's steps. -/

namespace Sys2Proof.Machine

/-- What a meaning answers. -/
abbrev Answer := Host.Outcome State Fault Refusal

/-- `REGISTER id, cb` (40_timer R142): the identity check first, then the pool, then slot `nreg`. -/
def execRegister (id cb : Byte) (s : State) : Answer :=
  match s.find id with
  | some _ => .next ((s.count .config).finish .register .configurationError 0#16)
  | none =>
    if s.nreg = s.cfg.nTimers then .next ((s.count .timerFull).finish .register .resourceExhausted 0#16)
    else
      let w : Slot := { reg := true, id := id, cb := cb, run := false, elapsed := 0#16, remaining := 0#16 }
      .next ({ s.setSlot s.nreg w with nreg := s.nreg + 1 }.finish .register .ok 0#16)

/-- `START id, dur` (40_timer R143). -/
def execStart (id : Byte) (dur : Half) (s : State) : Answer :=
  match s.find id with
  | none => .next (s.finish .start .notFound 0#16)
  | some i =>
    .next ((s.setSlot i { s.slot i with run := true, elapsed := 0#16, remaining := dur }).finish .start .ok 0#16)

/-- `STOP id` (40_timer R144): the counters are left stale. -/
def execStop (id : Byte) (s : State) : Answer :=
  match s.find id with
  | none => .next (s.finish .stop .notFound 0#16)
  | some i => .next ((s.setSlot i { s.slot i with run := false }).finish .stop .ok 0#16)

/-- `ELAPSED id` (40_timer R145). -/
def execElapsed (id : Byte) (s : State) : Answer :=
  match s.find id with
  | none => .next (s.finish .elapsed .notFound 0#16)
  | some i => .next (s.finish .elapsed .ok (s.slot i).elapsed)

/-! ## The tick handler -/

/-- A running slot is counted: the counters and the running flag after the slot step (40_timer R147). -/
def Slot.counted (w : Slot) : Slot :=
  if w.remaining ≤ 1#16 then { w with elapsed := w.elapsed + 1#16, remaining := 0#16, run := false }
  else { w with elapsed := w.elapsed + 1#16, remaining := w.remaining - 1#16 }

/-- The slot expires at this slot step and has a callback (40_timer R147). -/
def Slot.fires (w : Slot) : Bool := decide (w.remaining ≤ 1#16) && decide (w.cb ≠ noCallback)

/-- Slot i is counted by a tick: it is registered and running (40_timer R147). -/
def State.counts (s : State) (i : Nat) : Bool := decide (i < s.nreg) && (s.slot i).run

/-- The `TSEQ` slot step at `Tick(i)`, `i < N_TIMERS` (40_timer R147). An expiring slot is deactivated before its callback
is invoked (R148), and the callback's routine starts at its first operation (70_reset_and_hazards R293). -/
def State.tickSlot (i : Nat) (s : State) : State :=
  if s.counts i then
    let w := s.slot i
    let s1 := s.setSlot i w.counted
    if w.fires then { s1.emit (.callback w.cb w.id) with isr := .callback i, cbPos := 0 }
    else { s1 with isr := .tick (i + 1) }
  else { s with isr := .tick (i + 1) }

/-- The `TSEQ` final step at `Tick(N_TIMERS)`: the re-arm and the return (40_timer R149). -/
def State.tickFinal (s : State) : State := { s with cmp := s.cmp + s.cfg.pTick }.returnInterrupt

/-- The `TSEQ` step at `Tick(i)` (40_timer R146). -/
def State.tickScan (i : Nat) (s : State) : State :=
  if i < s.cfg.nTimers then s.tickSlot i else s.tickFinal

end Sys2Proof.Machine
end

