-- ==== Sys2Proof/Machine/Dispatcher.lean ====
section
/-! DEFINITION. The Event Dispatcher (41_dispatcher): POST and the drain scan. -/

namespace Sys2Proof.Machine

/-- `POST mask` (41_dispatcher R171). -/
def execPost (mask : Word) (s : State) : Answer :=
  if s.unmapped mask then .next (s.raiseFault (.unmappedEvent mask))
  else .next ((s.orEvents mask).finish .post .ok 0#16)

/-- The `DISP` step at `Scan(b)` (41_dispatcher R173): one atomic test-and-clear. The handler's routine starts at its
first operation (70_reset_and_hazards R293). `b + 1` in `Fin 32` is `(b + 1) mod 32`. -/
def State.scanBit (b : Fin 32) (s : State) : State :=
  if s.eventReady b then
    { (s.clearEvent b).emit (.dispatch b (s.cfg.handler b)) with main := .handler b, mainPos := 0 }
  else { s with main := .scan (b + 1) }

end Sys2Proof.Machine
end

