-- ==== Sys2Proof/Machine/Transport.lean ====
section
/-! DEFINITION. The Command-Queue Transport (42_transport): ENQ, the framing state machine, the peripheral's completion
BYTEDONE and the byte-complete ISR. -/

namespace Sys2Proof.Machine

/-- `Load(t, x)` (42_transport R195). -/
def State.load (t : Bus) (x : Byte) (s : State) : State :=
  (s.modXport t fun r => { r with infl := some x }).emit (.wire t x)

/-- `CompleteRow(t)` (42_transport R197): the row is marked free, the consumer cursor advances, the completion is
posted. -/
def State.completeRow (t : Bus) (s : State) : State :=
  (s.modXport t fun x =>
    { x.setRow x.rd { x.row x.rd with txLen := emptyLen } with rd := ringInc (s.cfg.bus t).rows x.rd }).postInternal
      (s.cfg.bus t).evDone

/-- Set the phase and the two cursors. -/
def State.setPhase (t : Bus) (p : Phase) (tx rx : Nat) (s : State) : State :=
  s.modXport t fun x => { x with phase := p, txIdx := tx, rxIdx := rx }

/-- The loop of `StartRow(t)` (42_transport R196), for at most the given number of iterations. -/
def State.startRowLoop : Nat → Bus → State → State
  | 0, _, s => s
  | n + 1, t, s =>
    let w := (s.xport t).row (s.xport t).rd
    if w.txLen = emptyLen then s.setPhase t .idle 0 0
    else if 0 < w.txLen.toNat then (s.setPhase t .sending 1 0).load t (w.dataAt 0)
    else if 0 < w.rxLen.toNat then (s.setPhase t .receiving 0 0).load t (s.cfg.bus t).fill
    else State.startRowLoop n t (s.completeRow t)

/-- `StartRow(t)`: "the loop ends within R + 1 iterations, because each CompleteRow empties one occupied row"
(42_transport R196; log 12). -/
def State.startRow (t : Bus) (s : State) : State := s.startRowLoop ((s.xport t).rows.length + 1) t

/-- The row write of `ENQ` and the producer cursor's advance (42_transport R192, R193). -/
def State.appendRow (t : Bus) (payload : List Byte) (dests : List Addr) (s : State) : State :=
  s.modXport t fun x =>
    { x.setRow x.wr ((x.row x.wr).fill payload dests) with wr := ringInc (s.cfg.bus t).rows x.wr }

/-- `ENQ.t payload, dests` (42_transport R192): the length check, then the ring, then the row, and when the instance is
Idle its start (R194). -/
def execEnq (t : Bus) (payload : List Byte) (dests : List Addr) (s : State) : Answer :=
  if (s.cfg.bus t).rowCap < payload.length + dests.length then .next (s.finish .enq .badLength 0#16)
  else if (s.xport t).full then .next ((s.count (Metric.enqFull t)).finish .enq .resourceExhausted 0#16)
  else
    let s1 := s.appendRow t payload dests
    let s2 := if (s.xport t).phase = .idle then s1.startRow t else s1
    .next (s2.finish .enq .ok 0#16)

/-- `BYTEDONE` (42_transport R198): the peripheral completes the byte in flight and returns v. With none in flight the
peripheral has no step (10_state R52, log 15). -/
def execBytedone (t : Bus) (v : Byte) (s : State) : Answer :=
  if (s.xport t).infl.isSome then
    .next ((s.modXport t fun x => { x with infl := none, rxData := v, bcPend := true }).emit (.rx t v))
  else .refused .nothingInFlight

/-! ## The byte-complete ISR (42_transport R199) -/

/-- The row at the consumer cursor. -/
def State.currentRow (s : State) (t : Bus) : Row := (s.xport t).row (s.xport t).rd

/-- `CompleteRow(t); StartRow(t)`: the next row at once, or Idle (42_transport R200, R201). -/
def State.nextRow (t : Bus) (s : State) : State := (s.completeRow t).startRow t

/-- The ISR body in phase Sending (42_transport R200). -/
def State.bcSending (t : Bus) (s : State) : State :=
  let w := s.currentRow t
  let i := (s.xport t).txIdx
  if i < w.txLen.toNat then (s.load t (w.dataAt i)).modXport t fun x => { x with txIdx := i + 1 }
  else if 0 < w.rxLen.toNat then
    (s.modXport t fun x => { x with phase := .receiving, rxIdx := 0 }).load t (s.cfg.bus t).fill
  else s.nextRow t

/-- The ISR body in phase Receiving (42_transport R201); `.error` is the state at the raise of `BAD_DEST`. -/
def State.bcReceiving (t : Bus) (s : State) : Except State State :=
  let w := s.currentRow t
  let i := (s.xport t).rxIdx
  match s.memWrite (w.destAt i) (s.xport t).rxData with
  | .error s1 => .error s1
  | .ok s1 =>
    let s2 := s1.modXport t fun x => { x with rxIdx := i + 1 }
    if i + 1 < w.rxLen.toNat then .ok (s2.load t (s.cfg.bus t).fill) else .ok (s2.nextRow t)

/-- The ISR body for the current phase; in phase Idle there is no effect (42_transport R199, R202). -/
def State.bcBody (t : Bus) (s : State) : Except State State :=
  match (s.xport t).phase with
  | .sending => .ok (s.bcSending t)
  | .receiving => s.bcReceiving t
  | .idle => .ok s

/-- The whole byte-complete ISR, one atomic step: entry, body, return. A fault ends it at the raise, so `IE` stays 0
(42_transport R199, 60_exceptions R255). -/
def State.byteComplete (t : Bus) (s : State) : State :=
  match (s.enterInterrupt (.bc t)).bcBody t with
  | .ok s1 => s1.returnInterrupt
  | .error s1 => s1

end Sys2Proof.Machine
end

