-- ==== Sys2Proof/Machine/System.lean ====
section
/-! DEFINITION. The system operations (43_system): RET, CSENTER, CSEXIT, RDMETRIC and an illegal operation; and the event
word TICK (60_exceptions R258). -/

namespace Sys2Proof.Machine

/-- `RET` (43_system R231): from a callback (R234), from initialisation (R232) or from a handler (R233). Nowhere else does
software run (R239, log 15). -/
def execRet (s : State) : Answer :=
  match s.isr, s.main with
  | .callback i, _ => .next { s with isr := .tick (i + 1) }
  | .none, .init => .next { s with ie := true, main := .scan 0 }
  | .none, .handler b =>
    if s.ie then .next { s with main := .scan (b + 1) } else .next (s.raiseFault (.leftMasked b))
  | .none, .scan _ => .refused .noSoftwareContext
  | .tick _, _ => .refused .noSoftwareContext

/-- `CSENTER` (43_system R235). -/
def execCsenter (s : State) : Answer :=
  .next ({ s with ie := false }.finish .csenter .ok (boolHalf s.ie))

/-- `CSEXIT v` (43_system R236). -/
def execCsexit (v : Bool) (s : State) : Answer :=
  if s.isr ≠ .none ∧ v = true then .next (s.finish .csexit .wrongContext 0#16)
  else .next ({ s with ie := v }.finish .csexit .ok 0#16)

/-- `RDMETRIC sel` (43_system R237). -/
def execRdmetric (sel : BitVec 2) (s : State) : Answer :=
  .next (s.finish .rdmetric .ok (s.met.get (Metric.ofSelector sel)))

/-- An operation that decodes to `ILLEGAL_OP` (43_system R238): no state changes but the trace. -/
def State.illegal (s : State) : State := s.finish .illegal .illegalOp 0#16

/-- `TICK`, the tick source's step (60_exceptions R258). -/
def execTick (s : State) : Answer := .next { s with tickPend := true }

end Sys2Proof.Machine
end

