-- ==== Sys2Proof/Machine/Dispatch.lean ====
section
/-! DEFINITION. One arm per constructor of Instr, each one direct call of its meaning. -/

namespace Sys2Proof.Machine

def exec (i : Instr) (s : State) : Host.Outcome State Fault Refusal :=
  match i with
  | .register id cb => Sys2Proof.Machine.execRegister id cb s
  | .start id dur => Sys2Proof.Machine.execStart id dur s
  | .stop id => Sys2Proof.Machine.execStop id s
  | .elapsed id => Sys2Proof.Machine.execElapsed id s
  | .post mask => Sys2Proof.Machine.execPost mask s
  | .enq t payload dests => Sys2Proof.Machine.execEnq t payload dests s
  | .ret => Sys2Proof.Machine.execRet s
  | .csenter => Sys2Proof.Machine.execCsenter s
  | .csexit v => Sys2Proof.Machine.execCsexit v s
  | .rdmetric sel => Sys2Proof.Machine.execRdmetric sel s
  | .tick => Sys2Proof.Machine.execTick s
  | .bytedone t v => Sys2Proof.Machine.execBytedone t v s

end Sys2Proof.Machine
end

