-- ==== Sys2Proof/Machine/Agents.lean ====
section
/-! DEFINITION. The agents (10_state R30): when each has a step (R52), what its step is, the programs that fix what
software does (70_reset_and_hazards R293), and the schedule that says which agent moves next (log 3). -/

namespace Sys2Proof.Machine

/-! ## Programs (70_reset_and_hazards R293) -/

/-- The routine of the current software context: the callback's, the handler's or the initialisation routine. -/
def State.currentRoutine (s : State) (p : Program) : Option Routine :=
  match s.isr, s.main with
  | .callback i, _ => p.callbacks.lookup (s.slot i).cb
  | .none, .init => some p.init
  | .none, .handler b => p.handlers.lookup (s.cfg.handler b)
  | .none, .scan _ => none
  | .tick _, _ => none

/-- The position of the current context: "one for the main context and one for the callback". -/
def State.position (s : State) : Nat :=
  match s.isr with
  | .callback _ => s.cbPos
  | .none => s.mainPos
  | .tick _ => s.mainPos

/-- The current context's position moves to the next operation. -/
def State.advance (s : State) : State :=
  match s.isr with
  | .callback _ => { s with cbPos := s.cbPos + 1 }
  | .none => { s with mainPos := s.mainPos + 1 }
  | .tick _ => { s with mainPos := s.mainPos + 1 }

/-- The operation that software issues next under the program. -/
def State.nextOp (s : State) : Option OpWords :=
  s.program.bind fun p => (s.currentRoutine p).bind fun r => r[s.position]?

/-- A routine of 70_reset_and_hazards R293: its last operation is `RET`. -/
def Routine.wf (r : Routine) : Bool := decide (r.getLast? = some (encode .ret))

/-- The callback ids that the program's `REGISTER` operations put in use. -/
def Routine.callbackIds (r : Routine) : List Byte :=
  r.filterMap fun p =>
    match decodeOp p with
    | .ok (.register _ cb) => if cb = noCallback then none else some cb
    | _ => none

/-- Every routine of the program. -/
def Program.routines (p : Program) : List Routine :=
  p.init :: (p.handlers.map Prod.snd ++ p.callbacks.map Prod.snd)

/-- A program of 70_reset_and_hazards R293 for a configuration: every routine ends with `RET`, each defined bit's handler
has a routine, and so has each callback id in use. -/
def Program.wf (p : Program) (c : Config) : Bool :=
  p.routines.all Routine.wf
    && ((List.finRange 32).all fun b =>
      !c.definedMask.getLsbD b.val || (p.handlers.lookup (c.handler b)).isSome)
    && p.routines.all fun r => r.callbackIds.all fun cb => (p.callbacks.lookup cb).isSome

/-! ## Enabling (10_state R52) -/

/-- The agents of 10_state R30, the `IRQ` agent with the source it takes. -/
inductive Agent where
  | sw
  | disp
  | irq (src : IrqSource)
  | tseq
  | ticksrc
  | per (t : Bus)
  deriving DecidableEq, Repr

/-- The table of 10_state R52 less its `nofault`. -/
def State.ready (s : State) : Agent → Bool
  | .sw =>
    match s.isr, s.main with
    | .callback _, _ => true
    | .none, .init => true
    | .none, .handler _ => true
    | .none, .scan _ => false
    | .tick _, _ => false
  | .disp =>
    match s.isr, s.main with
    | .none, .scan _ => true
    | .none, .init => false
    | .none, .handler _ => false
    | .callback _, _ => false
    | .tick _, _ => false
  | .irq src => decide (s.isr = .none) && s.ie && s.pending src
  | .tseq =>
    match s.isr with
    | .tick _ => true
    | .callback _ => false
    | .none => false
  | .ticksrc => true
  | .per t => (s.xport t).infl.isSome

/-- A step of the agent is enabled (10_state R52). -/
def State.enabled (s : State) (g : Agent) : Bool := !s.fault.any && s.ready g

/-- Whose step a move is; none for an input from outside the block and for a word that is no event word. -/
def Move.agent : Move → Option Agent
  | .software _ => some .sw
  | .routine => some .sw
  | .dispatcher => some .disp
  | .interrupt src => some (.irq src)
  | .tickScan => some .tseq
  | .event w =>
    match decodeEvent w with
    | .ok .tick => some .ticksrc
    | .ok (.bytedone t _) => some (.per t)
    | _ => none
  | .externalWrite _ _ => none
  | .externalReset _ => none

/-! ## The steps -/

/-- `SW` presents an operation (30_encoding R110, 43_system R238). -/
def State.issue (p : OpWords) (s : State) : Answer :=
  match decodeOp p with
  | .ok i => exec i s
  | .error _ => .next s.illegal

/-- `SW` under the program issues the next operation of its routine (70_reset_and_hazards R293). -/
def State.issueNext (s : State) : Answer :=
  match s.nextOp with
  | some p => s.advance.issue p
  | none => .refused .noOperation

/-- The `DISP` step (41_dispatcher R173). -/
def State.dispatcherStep (s : State) : Answer :=
  match s.main with
  | .scan b => .next (s.scanBit b)
  | .init => .refused .notEnabled
  | .handler _ => .refused .notEnabled

/-- The `IRQ` step for a source (60_exceptions R262): the byte-complete ISR is one atomic step (42_transport R199). -/
def State.interruptStep (src : IrqSource) (s : State) : Answer :=
  match src with
  | .tick => .next (s.enterInterrupt .tick)
  | .bc t => .next (s.byteComplete t)

/-- The `TSEQ` step (40_timer R147, R149). -/
def State.tickScanStep (s : State) : Answer :=
  match s.isr with
  | .tick i => .next (s.tickScan i)
  | .none => .refused .notEnabled
  | .callback _ => .refused .notEnabled

/-- A word on the event input (30_encoding R109). -/
def State.eventStep (w : Word) (s : State) : Answer :=
  match decodeEvent w with
  | .ok i => exec i s
  | .error _ => .refused .notAnEvent

/-- Software or firmware outside the block writes a byte of data memory; "the later one is what DM holds" (20_memory R81,
R88; log 7). -/
def State.writeFromOutside (a : Addr) (v : Byte) (s : State) : State :=
  { s with dm := Memory.write s.dm a.toNat v }

/-- Reset from outside (70_reset_and_hazards R290, R291): every piece of state at its reset value, the configuration, the
program and the rest of the schedule kept (log 8). -/
def State.resetFromOutside (launch : List (Addr × Byte)) (s : State) : State :=
  { State.resetWith s.cfg (Memory.ofLaunch launch) s.program with moves := s.moves }

/-- May the move be taken, faults apart? Its agent has a step (10_state R52), and software is unconstrained exactly when
no program fixes its choice (70_reset_and_hazards R293). -/
def State.allows (s : State) : Move → Bool
  | .software _ => s.ready .sw && s.program.isNone
  | .routine => s.ready .sw && s.program.isSome
  | .dispatcher => s.ready .disp
  | .interrupt src => s.ready (.irq src)
  | .tickScan => s.ready .tseq
  | .event w =>
    match decodeEvent w with
    | .ok (.bytedone t _) => s.ready (.per t)
    | _ => true
  | .externalWrite _ _ => true
  | .externalReset _ => true

/-- What an allowed move does. -/
def State.perform (s : State) : Move → Answer
  | .software p => s.issue p
  | .routine => s.issueNext
  | .dispatcher => s.dispatcherStep
  | .interrupt src => s.interruptStep src
  | .tickScan => s.tickScanStep
  | .event w => s.eventStep w
  | .externalWrite a v => .next (s.writeFromOutside a v)
  | .externalReset launch => .next (s.resetFromOutside launch)

/-- Is the move the reset from outside? It alone leaves a faulted state (70_reset_and_hazards R291). -/
def Move.isReset : Move → Bool
  | .externalReset _ => true
  | .software _ => false
  | .routine => false
  | .dispatcher => false
  | .interrupt _ => false
  | .tickScan => false
  | .event _ => false
  | .externalWrite _ _ => false

/-- One move: a faulted block has no step but the reset (60_exceptions R255); any other move is taken when it is allowed
(10_state R52). -/
def State.take (s : State) (m : Move) : Answer :=
  if s.fault.any && !m.isReset then .fault .stopped
  else if s.allows m then s.perform m
  else .refused .notEnabled

/-- One step of the machine: the next move of the schedule (log 3), in a well-formed configuration (10_state R33). -/
def State.next (s : State) : Answer :=
  if s.cfg.wf then
    match s.moves with
    | m :: rest => { s with moves := rest }.take m
    | [] => if s.fault.any then .fault .stopped else .refused .noMove
  else .refused .illFormedConfig

/-! ## Presenting an instruction -/

/-- Have the next step take this presentation: an operation at the operation port, with no program fixing what software
does; an event word at the event input, and for `BYTEDONE` with a byte in flight, without which the peripheral has no
step (logs 9, 10). -/
def State.present (p : OpWords) (s : State) : State :=
  match decodeEvent p.word with
  | .ok (.bytedone t _) =>
    { s.modXport t (fun x => { x with infl := some (x.infl.getD 0x00#8) }) with moves := .event p.word :: s.moves }
  | .ok _ => { s with moves := .event p.word :: s.moves }
  | .error _ => { s with program := none, moves := .software p :: s.moves }

end Sys2Proof.Machine
end

