-- ==== Sys2Proof/Machine/Step.lean ====
section
/-! DEFINITION. One step, and the presentation of an instruction. -/

namespace Sys2Proof.Machine

/-- One step of the block: the next move of the schedule (`State.next`). -/
def step (s : State) : Host.Outcome State Fault Refusal := s.next

/-- s with the instruction whose bits are w presented to the very next step (logs 9, 10). -/
def State.withFetchWord (s : State) (nbits w : Nat) : State := s.present (tableWords nbits w)

end Sys2Proof.Machine
end

