-- ==== Sys2Proof/Machine/Assembler.lean ====
section
/-! DEFINITION. The assembler syntax of FLRT-OP v1 (30_encoding R115) and its pseudo-instructions (R116): one operation a
line, a mnemonic and its operands separated by commas, `;` starting a comment, numerals decimal or `0x` hexadecimal. It is
a notation for programs; no step uses it. Mnemonics and names are taken in capitals as the rule writes them (log 19). -/

namespace Sys2Proof

/-! ## Pseudo-instructions (30_encoding R116) -/

/-- `POSTBIT n` is `POST (1 << n)`. -/
def Instr.postbit (n : Fin 32) : Instr := .post (BitVec.twoPow 32 n.val)

/-- `SEND.t [b0, ...]` is `ENQ.t [b0, ...], []`. -/
def Instr.send (t : Bus) (payload : List Byte) : Instr := .enq t payload []

/-- `RECV.t [d0, ...]` is `ENQ.t [], [d0, ...]`. -/
def Instr.recv (t : Bus) (dests : List Addr) : Instr := .enq t [] dests

/-- `RESTART id, dur` is `START id, dur`. -/
def Instr.restart (id : Byte) (dur : Half) : Instr := .start id dur

namespace Assembler

/-- The tokens of a line. -/
inductive Token where
  | name (cs : List Char)
  | num (n : Nat)
  | lbrack
  | rbrack
  | comma
  deriving DecidableEq, Repr

/-- A letter, a digit or a dot belongs to a word. -/
def wordChar (c : Char) : Bool := c.isAlphanum || c == '.' || c == '_'

/-- The value of a digit. -/
def digit (c : Char) : Option Nat :=
  if c.isDigit then some (c.toNat - '0'.toNat)
  else if 'a' ≤ c ∧ c ≤ 'f' then some (c.toNat - 'a'.toNat + 10)
  else if 'A' ≤ c ∧ c ≤ 'F' then some (c.toNat - 'A'.toNat + 10)
  else none

/-- The digits of a numeral in a base, after the value so far. -/
def digits (base : Nat) : Nat → List Char → Option Nat
  | acc, [] => some acc
  | acc, c :: cs => (digit c).bind fun d => if d < base then digits base (acc * base + d) cs else none

/-- A numeral: decimal, or `0x` hexadecimal. -/
def numeral : List Char → Option Nat
  | [] => none
  | ['0', 'x'] => none
  | '0' :: 'x' :: cs => digits 16 0 cs
  | cs => digits 10 0 cs

/-- The token of a word, given backwards. -/
def wordToken (back : List Char) : Option (List Token) :=
  match back.reverse with
  | [] => some []
  | c :: cs => if c.isDigit then (numeral (c :: cs)).map fun n => [.num n] else some [.name (c :: cs)]

/-- The tokens of a line, with the word being read, given backwards; a comment ends the line. -/
def tokens : List Char → List Char → Option (List Token)
  | back, [] => wordToken back
  | back, c :: cs =>
    if wordChar c then tokens (c :: back) cs
    else
      (wordToken back).bind fun w =>
        if c = ';' then some w
        else if c = ' ' ∨ c = '\t' then (tokens [] cs).map fun ts => w ++ ts
        else if c = ',' then (tokens [] cs).map fun ts => w ++ .comma :: ts
        else if c = '[' then (tokens [] cs).map fun ts => w ++ .lbrack :: ts
        else if c = ']' then (tokens [] cs).map fun ts => w ++ .rbrack :: ts
        else none

/-- The rest of a bracketed list that is not empty. -/
def items : List Token → Option (List Nat × List Token)
  | .num n :: .rbrack :: rest => some ([n], rest)
  | .num n :: .comma :: rest => (items rest).map fun r => (n :: r.1, r.2)
  | _ => none

/-- A bracketed list. -/
def list : List Token → Option (List Nat × List Token)
  | .lbrack :: .rbrack :: rest => some ([], rest)
  | .lbrack :: rest => items rest
  | _ => none

/-- A number that fits w bits. -/
def fit (w n : Nat) : Option (BitVec w) := if n < 2 ^ w then some (BitVec.ofNat w n) else none

/-- Numbers that fit w bits. -/
def fitAll (w : Nat) : List Nat → Option (List (BitVec w))
  | [] => some []
  | n :: ns => (fit w n).bind fun v => (fitAll w ns).map fun vs => v :: vs

/-- The instance of a mnemonic's suffix. -/
def suffix : List Char → Option Bus
  | ['.', 'A'] => some .a
  | ['.', 'B'] => some .b
  | _ => none

/-- A callback operand: a number, or `NONE`, which is 0xFF. -/
def callback : Token → Option Byte
  | .num n => fit 8 n
  | .name cs => if cs = "NONE".toList then some noCallback else none
  | .lbrack => none
  | .rbrack => none
  | .comma => none

/-- A metric selector: a number, or the metric's name. -/
def selector : Token → Option (BitVec 2)
  | .num n => fit 2 n
  | .name cs =>
    if cs = "TIMER_FULL".toList then some 0#2
    else if cs = "CONFIG".toList then some 1#2
    else if cs = "ENQ_FULL_A".toList then some 2#2
    else if cs = "ENQ_FULL_B".toList then some 3#2
    else none
  | .lbrack => none
  | .rbrack => none
  | .comma => none

/-- An operation with two number operands. -/
def pair (f : Byte → Half → Instr) : List Token → Option Instr
  | [.num i, .comma, .num d] => (fit 8 i).bind fun i => (fit 16 d).map fun d => f i d
  | _ => none

/-- An operation with one timer id. -/
def one (f : Byte → Instr) : List Token → Option Instr
  | [.num i] => (fit 8 i).map f
  | _ => none

/-- The two lists of `ENQ.t`. -/
def enq (t : Bus) (ts : List Token) : Option Instr :=
  match list ts with
  | some (bs, .comma :: rest) =>
    match list rest with
    | some (ds, []) => (fitAll 8 bs).bind fun bs => (fitAll 16 ds).map fun ds => .enq t bs ds
    | _ => none
  | _ => none

/-- The one list of `SEND.t`. -/
def send (t : Bus) (ts : List Token) : Option Instr :=
  match list ts with
  | some (bs, []) => (fitAll 8 bs).map (Instr.send t)
  | _ => none

/-- The one list of `RECV.t`. -/
def recv (t : Bus) (ts : List Token) : Option Instr :=
  match list ts with
  | some (ds, []) => (fitAll 16 ds).map (Instr.recv t)
  | _ => none

/-- An operation by its mnemonic and the tokens of its operands. -/
def operation (mn : List Char) (ts : List Token) : Option Instr :=
  if mn = "REGISTER".toList then
    match ts with
    | [.num i, .comma, c] => (fit 8 i).bind fun i => (callback c).map fun c => .register i c
    | _ => none
  else if mn = "START".toList then pair Instr.start ts
  else if mn = "RESTART".toList then pair Instr.restart ts
  else if mn = "STOP".toList then one Instr.stop ts
  else if mn = "ELAPSED".toList then one Instr.elapsed ts
  else if mn = "POST".toList then
    match ts with
    | [.num m] => (fit 32 m).map Instr.post
    | _ => none
  else if mn = "POSTBIT".toList then
    match ts with
    | [.num n] => if h : n < 32 then some (Instr.postbit ⟨n, h⟩) else none
    | _ => none
  else if mn.take 3 = "ENQ".toList then (suffix (mn.drop 3)).bind fun t => enq t ts
  else if mn.take 4 = "SEND".toList then (suffix (mn.drop 4)).bind fun t => send t ts
  else if mn.take 4 = "RECV".toList then (suffix (mn.drop 4)).bind fun t => recv t ts
  else if mn = "RET".toList then if ts = [] then some .ret else none
  else if mn = "CSENTER".toList then if ts = [] then some .csenter else none
  else if mn = "CSEXIT".toList then
    match ts with
    | [.num 0] => some (.csexit false)
    | [.num 1] => some (.csexit true)
    | _ => none
  else if mn = "RDMETRIC".toList then
    match ts with
    | [s] => (selector s).map Instr.rdmetric
    | _ => none
  else none

/-- A line: its operation, nothing (an empty line or a comment), or an error (the outer none). -/
def line (text : String) : Option (Option Instr) :=
  match tokens [] text.toList with
  | none => none
  | some [] => some none
  | some (.name mn :: ts) =>
    (operation mn ts).bind fun i => if i.wf then some (some i) else none
  | some (.num _ :: _) => none
  | some (.lbrack :: _) => none
  | some (.rbrack :: _) => none
  | some (.comma :: _) => none

/-- The operations of the lines of a routine. -/
def lines : List String → Option (List Instr)
  | [] => some []
  | t :: ts => (line t).bind fun i => (lines ts).map fun is => i.toList ++ is

/-- A routine from its lines (70_reset_and_hazards R293, 95_test_vectors section 3). -/
def routine (text : List String) : Option (List OpWords) := (lines text).map fun is => is.map encode

end Assembler

end Sys2Proof
end

