-- ==== Sys2Proof/Machine/Observe.lean ====
section
/-! DEFINITION. The state-register numbering SR<n> of 10_state R54: the model's observation of the state, which software
cannot read. -/

namespace Sys2Proof.Machine

/-- A one-bit field. -/
def bit (b : Bool) : BitVec 1 := BitVec.ofBool b

/-- An 8-bit field that holds a cursor or an index. -/
def byteOf (n : Nat) : Byte := BitVec.ofNat 8 n

/-- The main kind of `SR4`: 0 Init, 1 Scan, 2 Handler. -/
def MainCtx.kind : MainCtx → BitVec 2
  | .init => 0#2
  | .scan _ => 1#2
  | .handler _ => 2#2

/-- The main b of `SR4`. DESIGN CHOICE (log 20): 0 in Init, where 10_state R54 gives the field no value. -/
def MainCtx.index : MainCtx → BitVec 5
  | .init => 0#5
  | .scan b => BitVec.ofNat 5 b.val
  | .handler b => BitVec.ofNat 5 b.val

/-- The isr kind of `SR4`: 0 None, 1 Tick, 2 Callback. -/
def IsrCtx.kind : IsrCtx → BitVec 2
  | .none => 0#2
  | .tick _ => 1#2
  | .callback _ => 2#2

/-- The isr i of `SR4`. DESIGN CHOICE (log 20): 0 for None, where 10_state R54 gives the field no value. -/
def IsrCtx.index : IsrCtx → Byte
  | .none => 0#8
  | .tick i => byteOf i
  | .callback i => byteOf i

/-- The phase field of `TSTAT`: 0 Idle, 1 Sending, 2 Receiving. -/
def Phase.code : Phase → BitVec 2
  | .idle => 0#2
  | .sending => 1#2
  | .receiving => 2#2

/-- `TSTAT_A` / `TSTAT_B`. -/
def Transport.tstat (x : Transport) : Word :=
  byteOf x.rd ++ byteOf x.wr ++ x.infl.getD 0x00#8 ++ 0#5 ++ bit x.infl.isSome ++ x.phase.code

/-- `TCUR_A` / `TCUR_B`. -/
def Transport.tcur (x : Transport) : Word := 0#8 ++ x.rxData ++ byteOf x.rxIdx ++ byteOf x.txIdx

/-- `SLOT_i`. -/
def Slot.status (w : Slot) : Word := 0#8 ++ w.cb ++ w.id ++ 0#6 ++ bit w.run ++ bit w.reg

/-- `SLOTC_i`. -/
def Slot.counters (w : Slot) : Word := w.remaining ++ w.elapsed

/-- `SR1`, `CTRL`. -/
def State.ctrl (s : State) : Word :=
  0#28 ++ bit s.busB.bcPend ++ bit s.busA.bcPend ++ bit s.tickPend ++ bit s.ie

/-- `SR4`, `CTX`. -/
def State.ctx (s : State) : Word :=
  s.isr.index ++ 0#6 ++ s.isr.kind ++ 0#3 ++ s.main.index ++ 0#6 ++ s.main.kind

/-- `SR5`, `FAULT`. -/
def FaultSet.bits (f : FaultSet) : Word := 0#29 ++ bit f.leftMasked ++ bit f.badDest ++ bit f.unmappedEvent

/-- `SR<n>` (10_state R54), or none where the table gives no register of that number. -/
def State.sr (s : State) (n : Nat) : Option Word :=
  if n = 0 then some s.events
  else if n = 1 then some s.ctrl
  else if n = 2 then some (0#16 ++ s.cmp)
  else if n = 3 then some (0#24 ++ byteOf s.nreg)
  else if n = 4 then some s.ctx
  else if n = 5 then some s.fault.bits
  else if n = 6 then some (s.met.config ++ s.met.timerFull)
  else if n = 7 then some (s.met.enqFullB ++ s.met.enqFullA)
  else if n = 8 then some s.busA.tstat
  else if n = 9 then some s.busA.tcur
  else if n = 10 then some s.busB.tstat
  else if n = 11 then some s.busB.tcur
  else if 0x100 ≤ n ∧ (n - 0x100) / 2 < s.cfg.nTimers then
    let w := s.slot ((n - 0x100) / 2)
    if (n - 0x100) % 2 = 0 then some w.status else some w.counters
  else none

end Sys2Proof.Machine
end

