-- ==== Sys2Proof/Safety.lean ====
section
/-! DEFINITION. What claims are stated in: the invariants of 10_state R41, R42, R48, R55 and of the contexts, the end of a
run (70_reset_and_hazards R305) and fairness (R307). -/

namespace Sys2Proof.Machine

/-! ## The invariants -/

/-- 10_state R41 and R42: the pool has `N_TIMERS` slots, the first `nreg` of them registered and no other; identities are
distinct; an unregistered slot does not run; a running slot has ticks left, or was started with duration 0 and has not yet
seen a tick (log 18). -/
abbrev State.poolInv (s : State) : Prop :=
  s.slots.length = s.cfg.nTimers
  ∧ s.nreg ≤ s.cfg.nTimers
  ∧ (∀ i < s.cfg.nTimers, (s.slot i).reg = decide (i < s.nreg))
  ∧ (∀ i < s.nreg, ∀ j < s.nreg, (s.slot i).id = (s.slot j).id → i = j)
  ∧ (∀ i < s.cfg.nTimers, (s.slot i).reg = false → (s.slot i).run = false)
  ∧ (∀ i < s.cfg.nTimers, (s.slot i).run = true →
      1 ≤ (s.slot i).remaining.toNat ∨ (s.slot i).remaining = 0#16 ∧ (s.slot i).elapsed = 0#16)

/-- A row has room for `K_ROW[t]` bytes, and an occupied one uses no more (10_state R44). -/
abbrev Row.legal (k : Nat) (w : Row) : Prop :=
  w.data.length = k ∧ w.dest.length = k ∧ (w.occupied = true → w.txLen.toNat + w.rxLen.toNat ≤ k)

/-- 10_state R48 (a) to (d), with `n` the number of occupied rows. -/
abbrev Transport.ringInv (c : BusConfig) (x : Transport) : Prop :=
  x.rows.length = c.rows
  ∧ x.rd < c.rows ∧ x.wr < c.rows
  ∧ (∀ w ∈ x.rows, w.legal c.rowCap)
  ∧ x.wr = (x.rd + x.count) % c.rows
  ∧ (∀ k < c.rows, x.occupied ((x.rd + k) % c.rows) = decide (k < x.count))
  ∧ (x.phase = .idle ↔ x.count = 0)
  ∧ (x.infl.isSome = true ∨ x.bcPend = true → x.phase ≠ .idle)

/-- 10_state R55 for the cursors, and 42_transport R195's "only when `infl = none`": the byte in flight and its pending
interrupt exclude each other. -/
abbrev Transport.cursorInv (x : Transport) : Prop :=
  (x.phase = .idle → x.txIdx = 0 ∧ x.rxIdx = 0)
  ∧ (x.phase = .sending → 1 ≤ x.txIdx ∧ x.txIdx ≤ (x.row x.rd).txLen.toNat ∧ x.rxIdx = 0)
  ∧ (x.phase = .receiving → x.txIdx = (x.row x.rd).txLen.toNat ∧ x.rxIdx < (x.row x.rd).rxLen.toNat)
  ∧ (x.infl.isSome = true → x.bcPend = false)

/-- The invariants of one Transport instance. -/
abbrev Transport.inv (c : BusConfig) (x : Transport) : Prop := x.ringInv c ∧ x.cursorInv

/-- An instance that is not Idle waits for a byte or for its interrupt (42_transport R205). -/
abbrev Transport.busy (x : Transport) : Prop := x.phase ≠ .idle → x.infl.isSome = true ∨ x.bcPend = true

/-- The contexts: interrupts are masked in an ISR (60_exceptions R264); the two cursors of 10_state R35 are in range, and
a callback runs for a registered slot that has one (40_timer R147, R148); only a defined bit is set or handled
(41_dispatcher R173, R174); the drain scan does not run masked (43_system R232, R233). -/
abbrev State.contextInv (s : State) : Prop :=
  (s.isr ≠ .none → s.ie = false)
  ∧ (∀ i, s.isr = .tick i → i ≤ s.cfg.nTimers)
  ∧ (∀ i, s.isr = .callback i → i < s.nreg ∧ (s.slot i).cb ≠ noCallback)
  ∧ s.events &&& ~~~s.cfg.definedMask = 0#32
  ∧ (∀ b, s.main = .handler b → s.cfg.definedMask.getLsbD b.val = true)
  ∧ (∀ b, s.main = .scan b → s.isr = .none → s.fault.any = false → s.ie = true)

/-- The invariant of every reachable state (10_state R60). -/
structure State.Inv (s : State) : Prop where
  config : s.cfg.wf = true
  pool : s.poolInv
  ringA : s.busA.inv s.cfg.busA
  ringB : s.busB.inv s.cfg.busB
  busy : s.fault.any = false → s.busA.busy ∧ s.busB.busy
  context : s.contextInv
  memory : Memory.wf s.dm = true

/-! ## Schedules -/

/-- The block is about to take this move: its configuration is well-formed (10_state R33), no fault is recorded, and the
move stands first in the schedule. -/
abbrev State.willTake (s : State) (m : Move) (rest : List Move) : Prop :=
  s.cfg.wf = true ∧ s.fault = FaultSet.empty ∧ s.moves = m :: rest

/-- Software may issue an operation (10_state R52). -/
abbrev State.softwareRuns (s : State) : Prop :=
  (∃ i, s.isr = .callback i) ∨ s.isr = .none ∧ (s.main = .init ∨ ∃ b, s.main = .handler b)

/-- The presentation that software makes when it takes this move. -/
def State.presented (s : State) : Move → Option OpWords
  | .software p => some p
  | .routine => s.nextOp
  | .dispatcher => none
  | .interrupt _ => none
  | .tickScan => none
  | .event _ => none
  | .externalWrite _ _ => none
  | .externalReset _ => none

/-- The operation that software issues when it takes this move, if the presentation decodes to one. -/
def State.issues (s : State) (m : Move) : Option Instr :=
  (s.presented m).bind fun p => (decodeOp p).toOption

/-- Follow a schedule from s: one step of the machine for each of its moves. -/
def State.follow (s : State) (ms : List Move) : Answer := Sys2Proof.core.run ms.length { s with moves := ms }

/-- How many `TSEQ` slot steps process slot i along a schedule (40_timer R147, R150). -/
def State.visits (i : Nat) : List Move → State → Nat
  | [], _ => 0
  | m :: ms, s =>
    (if m = .tickScan ∧ s.isr = .tick i then 1 else 0) +
      match s.take m with
      | .next s' => State.visits i ms s'
      | .fault _ => 0
      | .refused _ => 0

/-- The commands of an instance's ring, the one in exchange first: the payload and the destinations of each occupied row
(10_state R48, 42_transport R204). -/
def Transport.commands (x : Transport) : List (List Byte × List Addr) :=
  (List.range x.count).map fun k =>
    let w := x.row ((x.rd + k) % x.rows.length)
    (w.data.take w.txLen.toNat, w.dest.take w.rxLen.toNat)

/-- The schedule on which a peripheral completes each of these bytes and its interrupt is taken at once (42_transport
R198, R199). -/
def exchange (t : Bus) (vs : List Byte) : List Move :=
  vs.flatMap fun v => [.event (encode (.bytedone t v)).word, .interrupt (.bc t)]

/-! ## The end of a run (70_reset_and_hazards R305) -/

/-- An instance with nothing to do. -/
abbrev Transport.atRest (x : Transport) : Prop := x.phase = .idle ∧ x.infl = none ∧ x.bcPend = false

/-- `main = Scan(b)` for some b. -/
abbrev State.scanning (s : State) : Prop := ∃ b, s.main = .scan b

/-- A quiescent state (70_reset_and_hazards R305). -/
structure State.Quiescent (s : State) : Prop where
  fault : s.fault = FaultSet.empty
  isr : s.isr = .none
  main : s.scanning
  events : s.events = 0#32
  tickPend : s.tickPend = false
  busA : s.busA.atRest
  busB : s.busB.atRest
  slots : ∀ w ∈ s.slots, w.run = false

/-- The run has faulted (70_reset_and_hazards R305). -/
abbrev State.Faulted (s : State) : Prop := s.fault ≠ FaultSet.empty

/-- A transport waits for its peripheral (42_transport R205). -/
abbrev State.waitsFor (s : State) (t : Bus) : Prop := (s.xport t).phase ≠ .idle ∧ (s.xport t).infl.isSome = true

/-! ## Infinite runs and fairness (70_reset_and_hazards R307)

A state's schedule is finite, so an infinite run is a sequence of states and of the moves taken between them (log 16). -/

/-- An infinite run: each state is the one the move before it gives. -/
structure InfiniteRun where
  state : Nat → State
  move : Nat → Move
  steps : ∀ n, (state n).take (move n) = .next (state (n + 1))

/-- Weak fairness of a set of agents (one agent, or `IRQ` with any of its sources): if from some point on one of them has
an enabled step in every state, one of them moves again and again. -/
def InfiniteRun.WeaklyFair (r : InfiniteRun) (group : Agent → Prop) : Prop :=
  ∀ n, (∀ m ≥ n, ∃ g, group g ∧ (r.state m).enabled g = true) →
    ∃ m ≥ n, ∃ g, group g ∧ (r.move m).agent = some g

/-- The fairness on which claims that a run ends rest (70_reset_and_hazards R307). -/
structure InfiniteRun.Fair (r : InfiniteRun) : Prop where
  disp : r.WeaklyFair (· = .disp)
  irq : r.WeaklyFair (fun g => ∃ src, g = .irq src)
  tseq : r.WeaklyFair (· = .tseq)
  sw : (∀ n, (r.state n).program.isSome = true) → r.WeaklyFair (· = .sw)
  ticksrc : (∀ n, (r.state n).cfg.fairTick = true) → r.WeaklyFair (· = .ticksrc)
  per : ∀ t, (∀ n, ((r.state n).cfg.bus t).fair = true) → r.WeaklyFair (· = .per t)

/-- The run is stuck: from some point on a transport waits for its peripheral forever (70_reset_and_hazards R305). -/
def InfiniteRun.Stuck (r : InfiniteRun) : Prop := ∃ t n, ∀ m ≥ n, (r.state m).waitsFor t ∧ (r.move m).agent ≠ some (.per t)

/-- The run is hung: it is infinite and weakly fair and reaches no quiescent state (70_reset_and_hazards R305). -/
def InfiniteRun.Hung (r : InfiniteRun) : Prop := r.Fair ∧ ∀ n, ¬ (r.state n).Quiescent

end Sys2Proof.Machine
end

