-- ==== Sys2Proof/Certificates/Slice0/Obligations.lean ====
section
/-! DEFINITION. The statements for the provers. Each docstring names the rule of spec/ it formalises; a clause that rests on
the model's own choice names its log entry. A statement about a step of an agent names the step by the schedule's next
move, `State.willTake` (log 3). -/

open Sys2Proof Sys2Proof.Machine

/-! ## Encoding (30_encoding) -/

/-- 30_encoding R115 (worked encodings), with the formats of R102 and the packing of R107, R108; a reserved bit, a wrong
operand count and an event opcode are refused on the operation port (R110-R112). -/
def Obligations.WorkedEncodingsDecode : Prop :=
  decodeOp ⟨0x010700FF#32, []⟩ = .ok (.register 7#8 0xFF#8)
  ∧ decodeOp ⟨0x02091234#32, []⟩ = .ok (.start 9#8 0x1234#16)
  ∧ decodeOp ⟨0x03050000#32, []⟩ = .ok (.stop 5#8)
  ∧ decodeOp ⟨0x04050000#32, []⟩ = .ok (.elapsed 5#8)
  ∧ decodeOp ⟨0x10000000#32, [0x00000004#32]⟩ = .ok (.post 4#32)
  ∧ decodeOp ⟨0x20000302#32, [0x00015AA5#32, 0x00000100#32, 0x00000101#32]⟩
      = .ok (.enq .a [0xA5#8, 0x5A#8, 0x01#8] [0x0100#16, 0x0101#16])
  ∧ decodeOp ⟨0x20010000#32, []⟩ = .ok (.enq .b [] [])
  ∧ decodeOp ⟨0x30000000#32, []⟩ = .ok .ret
  ∧ decodeOp ⟨0x31000000#32, []⟩ = .ok .csenter
  ∧ decodeOp ⟨0x32000001#32, []⟩ = .ok (.csexit true)
  ∧ decodeOp ⟨0x40000003#32, []⟩ = .ok (.rdmetric 3#2)
  ∧ decodeEvent 0xE0000000#32 = .ok .tick
  ∧ decodeEvent 0xE1010042#32 = .ok (.bytedone .b 0x42#8)
  ∧ decodeOp ⟨0x01050100#32, []⟩ = .error .reservedBits
  ∧ decodeOp ⟨0x10000000#32, []⟩ = .error .operandCount
  ∧ decodeOp ⟨0xE0000000#32, []⟩ = .error .eventOpcode

/-- Decoding the words of a well-formed instruction on its channel gives it back, with every operand at every value
(30_encoding R102, R103, R105-R110). -/
def Obligations.DecodeOfEncodeIsTheInstruction : Prop :=
  ∀ i : Instr, i.wf = true → decodeOnItsChannel i (encode i) = .ok i

/-- A presentation that decodes is exactly the words of the operation it decodes to: no reserved bit is ignored and no
two presentations mean the same operation (30_encoding R110, R111). -/
def Obligations.DecodedPresentationIsItsEncoding : Prop :=
  ∀ (p : OpWords) (i : Instr), decodeOp p = .ok i → i.wf = true ∧ i.isEvent = false ∧ encode i = p

/-- 30_encoding R109: the event input accepts TICK (0xE0000000) and BYTEDONE with `n` 0 for A or 1 for B and any byte, and
no other word. -/
def Obligations.EventInputAcceptsOnlyTwoPatterns : Prop :=
  ∀ (w : Word) (i : Instr), decodeEvent w = .ok i ↔
    (w = 0xE0000000#32 ∧ i = .tick)
    ∨ ∃ v : Byte, (w = (0xE10000#24 ++ v : Word) ∧ i = .bytedone .a v)
        ∨ (w = (0xE10100#24 ++ v : Word) ∧ i = .bytedone .b v)

/-- 30_encoding R112: every opcode that is not one of the ten operations' is illegal on the operation port, whatever the
operand words, and so are the two event opcodes. -/
def Obligations.UnlistedOpcodesAreIllegal : Prop :=
  ∀ p : OpWords,
    opcodeOf p.word ∉ [0x01#8, 0x02#8, 0x03#8, 0x04#8, 0x10#8, 0x20#8, 0x30#8, 0x31#8, 0x32#8, 0x40#8] →
    decodeOp p =
      .error (if opcodeOf p.word = 0xE0#8 ∨ opcodeOf p.word = 0xE1#8 then .eventOpcode else .reservedOpcode)

/-- The stream reader of 30_encoding R114 takes exactly the words of the next operation, and no operation is longer than
320 words. -/
def Obligations.StreamReaderTakesOneOperation : Prop :=
  (∀ (i : Instr) (rest : List Word), i.wf = true → i.isEvent = false →
    readStream ((encode i).toList ++ rest) = some (encode i, rest))
  ∧ ∀ w : Word, 1 + operandCount w ≤ 320

/-! ## The step -/

/-- A step that presents an operation runs the decoded instruction (10_state R52, R53; 30_encoding R110). The schedule
is the model's own (log 3). -/
def Obligations.StepIssuesTheDecodedOperation : Prop :=
  ∀ (s : State) (p : OpWords) (rest : List Move) (i : Instr),
    s.willTake (.software p) rest → s.program = none → s.softwareRuns → decodeOp p = .ok i →
    step s = exec i { s with moves := rest }

/-- A step that takes a word on the event input runs the decoded event, for BYTEDONE when a byte is in flight (10_state
R52, 30_encoding R109). The schedule is the model's own (log 3). -/
def Obligations.StepRunsTheEventWord : Prop :=
  ∀ (s : State) (w : Word) (rest : List Move) (i : Instr),
    s.willTake (.event w) rest → decodeEvent w = .ok i → (∀ t v, i = .bytedone t v → (s.xport t).infl ≠ none) →
    step s = exec i { s with moves := rest }

/-- Under a program, software's step runs the operation at the position of the current context's routine and moves that
context's position on, the other context's position untouched (70_reset_and_hazards R293). -/
def Obligations.StepRunsTheRoutinesNextOperation : Prop :=
  ∀ (s : State) (rest : List Move) (pr : Program) (r : Routine) (p : OpWords) (i : Instr),
    s.willTake .routine rest → s.program = some pr → decodeOp p = .ok i →
    (∀ k, s.isr = .callback k → pr.callbacks.lookup (s.slot k).cb = some r → r[s.cbPos]? = some p →
      step s = exec i { s with moves := rest, cbPos := s.cbPos + 1 })
    ∧ (s.isr = .none → s.main = .init → pr.init[s.mainPos]? = some p →
      step s = exec i { s with moves := rest, mainPos := s.mainPos + 1 })
    ∧ (∀ b, s.isr = .none → s.main = .handler b → pr.handlers.lookup (s.cfg.handler b) = some r →
      r[s.mainPos]? = some p → step s = exec i { s with moves := rest, mainPos := s.mainPos + 1 })

/-- 10_state R52: with no program fixing what software does, an agent has a step exactly under its condition. -/
def Obligations.AgentMovesExactlyWhenEnabled : Prop :=
  ∀ (s : State) (g : Agent), s.cfg.wf = true → s.program = none →
    ((∃ m s', m.agent = some g ∧ step { s with moves := [m] } = .next s') ↔
      s.fault = FaultSet.empty ∧
      match g with
      | .sw => (s.isr = .none ∧ (s.main = .init ∨ ∃ b, s.main = .handler b)) ∨ ∃ i, s.isr = .callback i
      | .disp => s.isr = .none ∧ ∃ b, s.main = .scan b
      | .irq .tick => s.isr = .none ∧ s.ie = true ∧ s.tickPend = true
      | .irq (.bc t) => s.isr = .none ∧ s.ie = true ∧ (s.xport t).bcPend = true
      | .tseq => ∃ i, s.isr = .tick i
      | .ticksrc => True
      | .per t => (s.xport t).infl ≠ none)

/-- Once a fault is recorded no move is taken but the reset from outside. That no agent has a step is 10_state R49 and
60_exceptions R255. That the writes of software outside the block, which is no agent, stop too is the model's choice (log
5), and so is the name of the stop. -/
def Obligations.FaultedBlockHasNoStep : Prop :=
  ∀ (s : State) (m : Move) (rest : List Move), s.cfg.wf = true → s.moves = m :: rest → s.fault ≠ FaultSet.empty →
    (∀ launch, m ≠ .externalReset launch) → step s = .fault .stopped

/-- No step writes the configuration (10_state R31). -/
def Obligations.ConfigurationIsFixed : Prop :=
  ∀ s s' : State, step s = .next s' → s'.cfg = s.cfg

/-- The trace is only appended to, and no step reads it (10_state R58), the reset from outside apart. -/
def Obligations.TraceIsAppendedAndNeverRead : Prop :=
  ∀ s s' : State, step s = .next s' → (∀ launch rest, s.moves ≠ .externalReset launch :: rest) →
    ∃ added, s'.trace = s.trace ++ added
      ∧ ∀ tr : List TraceEntry, step { s with trace := tr } = .next { s' with trace := tr ++ added }

/-- The block only writes data memory and never reads it (10_state R57, 20_memory R85): with other contents the step
answers the same, and the next states differ at most in data memory. -/
def Obligations.DataMemoryIsNeverRead : Prop :=
  ∀ (s : State) (m : Memory),
    match step s with
    | .next s' => ∃ m', step { s with dm := m } = .next { s' with dm := m' }
    | .fault r => step { s with dm := m } = .fault r
    | .refused r => step { s with dm := m } = .refused r

/-- 60_exceptions R256: one step appends at most one `Fault` entry, and records a fault only with that entry. -/
def Obligations.OneStepRaisesAtMostOneFault : Prop :=
  ∀ s s' : State, step s = .next s' → (∀ launch rest, s.moves ≠ .externalReset launch :: rest) →
    (s'.fault = s.fault ∧ ∀ f, .fault f ∉ s'.trace.drop s.trace.length)
    ∨ ∃ f, s'.fault = s.fault.add f
        ∧ (s'.trace.drop s.trace.length).filter (fun e => match e with | .fault _ => true | _ => false) = [.fault f]

/-! ## Reset and the invariants -/

/-- 10_state R59: every piece of state at reset, for every configuration; data memory is what the launch supplies. -/
def Obligations.ResetValues : Prop :=
  ∀ (c : Config) (launch : Memory) (p : Option Program),
    let s := State.resetWith c launch p
    s.cfg = c ∧ s.events = 0x00000000#32 ∧ s.ie = false ∧ s.tickPend = false ∧ s.cmp = c.pTick ∧ s.nreg = 0
    ∧ s.slots.length = c.nTimers
    ∧ (∀ w ∈ s.slots, w.reg = false ∧ w.run = false ∧ w.id = 0x00#8 ∧ w.cb = 0xFF#8 ∧ w.elapsed = 0#16 ∧ w.remaining = 0#16)
    ∧ (∀ t : Bus,
        (s.xport t).phase = .idle ∧ (s.xport t).wr = 0 ∧ (s.xport t).rd = 0 ∧ (s.xport t).txIdx = 0
        ∧ (s.xport t).rxIdx = 0 ∧ (s.xport t).infl = none ∧ (s.xport t).bcPend = false ∧ (s.xport t).rxData = 0x00#8
        ∧ (s.xport t).rows.length = (c.bus t).rows
        ∧ ∀ w ∈ (s.xport t).rows, w.txLen = 0xFF#8 ∧ w.rxLen = 0x00#8
            ∧ w.data = List.replicate (c.bus t).rowCap 0x00#8 ∧ w.dest = List.replicate (c.bus t).rowCap 0x0000#16)
    ∧ s.met = ⟨0#16, 0#16, 0#16, 0#16⟩ ∧ s.main = .init ∧ s.isr = .none ∧ s.fault = ⟨false, false, false⟩
    ∧ s.dm = launch ∧ s.trace = []

/-- The reset from outside puts every piece of state at its reset value, from a faulted state too (70_reset_and_hazards
R290, R291). That the configuration, the program and the rest of the schedule are kept is the model's choice (log 8). -/
def Obligations.ExternalResetRestoresEverything : Prop :=
  ∀ (s : State) (launch : List (Addr × Byte)) (rest : List Move),
    s.cfg.wf = true → s.moves = .externalReset launch :: rest →
    step s = .next { State.resetWith s.cfg (Memory.ofLaunch launch) s.program with moves := rest }

/-- The reset state of every well-formed configuration meets the invariant (10_state R60). -/
def Obligations.ResetMeetsTheInvariant : Prop :=
  ∀ (c : Config) (launch : List (Addr × Byte)) (p : Option Program), c.wf = true →
    (State.resetWith c (Memory.ofLaunch launch) p).Inv

/-- Every step keeps the pool, ring, cursor and context invariants and the canonical form of data memory (10_state R41,
R42, R48, R55; 60_exceptions R264). -/
def Obligations.EveryStepKeepsTheInvariant : Prop :=
  ∀ s s' : State, s.Inv → step s = .next s' → s'.Inv

/-! ## Timer Engine (40_timer) -/

/-- 40_timer R141: `find(id)` is the one registered slot with that identity, or none. -/
def Obligations.FindIsTheRegisteredSlot : Prop :=
  ∀ (s : State) (id : Byte), s.Inv →
    (∀ i, s.find id = some i ↔ i < s.nreg ∧ (s.slot i).id = id)
    ∧ (s.find id = none ↔ ∀ i < s.nreg, (s.slot i).id ≠ id)

/-- 40_timer R142: `REGISTER`. -/
def Obligations.RegisterAssignsTheNextSlot : Prop :=
  ∀ (id cb : Byte) (s : State),
    (s.find id ≠ none →
      exec (.register id cb) s = .next { s with
        met := { s.met with config := if s.met.config = 0xFFFF#16 then 0xFFFF#16 else s.met.config + 1#16 }
        trace := s.trace ++ [.result .register .configurationError 0#16] })
    ∧ (s.find id = none → s.nreg = s.cfg.nTimers →
      exec (.register id cb) s = .next { s with
        met := { s.met with timerFull := if s.met.timerFull = 0xFFFF#16 then 0xFFFF#16 else s.met.timerFull + 1#16 }
        trace := s.trace ++ [.result .register .resourceExhausted 0#16] })
    ∧ (s.find id = none → s.nreg ≠ s.cfg.nTimers →
      exec (.register id cb) s = .next { s with
        slots := s.slots.set s.nreg
          { reg := true, id := id, cb := cb, run := false, elapsed := 0#16, remaining := 0#16 }
        nreg := s.nreg + 1
        trace := s.trace ++ [.result .register .ok 0#16] })

/-- 40_timer R143: `START`. -/
def Obligations.StartSetsTheCounters : Prop :=
  ∀ (id : Byte) (dur : Half) (s : State),
    (s.find id = none →
      exec (.start id dur) s = .next { s with trace := s.trace ++ [.result .start .notFound 0#16] })
    ∧ ∀ i, s.find id = some i →
      exec (.start id dur) s = .next { s with
        slots := s.slots.set i { s.slot i with run := true, elapsed := 0#16, remaining := dur }
        trace := s.trace ++ [.result .start .ok 0#16] }

/-- 40_timer R144: `STOP` leaves the counters stale. -/
def Obligations.StopClearsTheRunningFlag : Prop :=
  ∀ (id : Byte) (s : State),
    (s.find id = none →
      exec (.stop id) s = .next { s with trace := s.trace ++ [.result .stop .notFound 0#16] })
    ∧ ∀ i, s.find id = some i →
      exec (.stop id) s = .next { s with
        slots := s.slots.set i { s.slot i with run := false }
        trace := s.trace ++ [.result .stop .ok 0#16] }

/-- 40_timer R145: `ELAPSED` writes nothing but the trace. -/
def Obligations.ElapsedReturnsTheCounter : Prop :=
  ∀ (id : Byte) (s : State),
    (s.find id = none →
      exec (.elapsed id) s = .next { s with trace := s.trace ++ [.result .elapsed .notFound 0#16] })
    ∧ ∀ i, s.find id = some i →
      exec (.elapsed id) s = .next { s with trace := s.trace ++ [.result .elapsed .ok (s.slot i).elapsed] }

/-- 40_timer R147: the `TSEQ` slot step. That the callback's routine starts at its first operation is
70_reset_and_hazards R293. -/
def Obligations.TickSlotStep : Prop :=
  ∀ (s : State) (rest : List Move) (i : Nat),
    s.willTake .tickScan rest → s.isr = .tick i → i < s.cfg.nTimers →
    ((i < s.nreg ∧ (s.slot i).run = true) → (s.slot i).remaining.toNat ≤ 1 → (s.slot i).cb ≠ 0xFF#8 →
      step s = .next { s with
        moves := rest
        slots := s.slots.set i { s.slot i with elapsed := (s.slot i).elapsed + 1#16, remaining := 0#16, run := false }
        trace := s.trace ++ [.callback (s.slot i).cb (s.slot i).id]
        isr := .callback i
        cbPos := 0 })
    ∧ ((i < s.nreg ∧ (s.slot i).run = true) → (s.slot i).remaining.toNat ≤ 1 → (s.slot i).cb = 0xFF#8 →
      step s = .next { s with
        moves := rest
        slots := s.slots.set i { s.slot i with elapsed := (s.slot i).elapsed + 1#16, remaining := 0#16, run := false }
        isr := .tick (i + 1) })
    ∧ ((i < s.nreg ∧ (s.slot i).run = true) → 1 < (s.slot i).remaining.toNat →
      step s = .next { s with
        moves := rest
        slots := s.slots.set i
          { s.slot i with elapsed := (s.slot i).elapsed + 1#16, remaining := (s.slot i).remaining - 1#16 }
        isr := .tick (i + 1) })
    ∧ (¬ (i < s.nreg ∧ (s.slot i).run = true) → step s = .next { s with moves := rest, isr := .tick (i + 1) })

/-- 40_timer R149: the `TSEQ` final step re-arms the compare register relative to its previous value and returns. -/
def Obligations.TickFinalStepReArmsAndReturns : Prop :=
  ∀ (s : State) (rest : List Move), s.willTake .tickScan rest → s.isr = .tick s.cfg.nTimers →
    step s = .next { s with moves := rest, cmp := s.cmp + s.cfg.pTick, isr := .none, ie := true }

/-- 40_timer R150, over every interleaving of the agents: a running slot with a fresh count, of which no `START` or `STOP`
is issued meanwhile, fires exactly at the `max(d, 1)`-th slot step that processes it, with that count elapsed, and once.
`State.visits` counts the slot steps that process slot i. -/
def Obligations.TimerFiresOnceAtItsDuration : Prop :=
  ∀ (s s' : State) (ms : List Move) (i : Nat), s.Inv → s.program = none →
    i < s.nreg → (s.slot i).run = true → (s.slot i).elapsed = 0#16 →
    (∀ m ∈ ms, ∀ launch, m ≠ .externalReset launch) →
    (∀ p ∈ ms.filterMap (fun m => match m with | .software p => some p | _ => none),
      (∀ d, decodeOp p ≠ .ok (.start (s.slot i).id d)) ∧ decodeOp p ≠ .ok (.stop (s.slot i).id)) →
    s.follow ms = .next s' →
    let d := max (s.slot i).remaining.toNat 1
    let n := s.visits i ms
    (s'.slot i).elapsed.toNat = min n d
    ∧ (s'.slot i).run = decide (n < d)
    ∧ (s'.trace.filter fun e => match e with | .callback _ id => decide (id = (s.slot i).id) | _ => false) =
        (s.trace.filter fun e => match e with | .callback _ id => decide (id = (s.slot i).id) | _ => false)
          ++ if d ≤ n ∧ (s.slot i).cb ≠ 0xFF#8 then [.callback (s.slot i).cb (s.slot i).id] else []


/-- One whole tick ISR whose callbacks do nothing but return counts every running slot exactly once, in slot order,
re-arms the compare register and resumes the main context (40_timer R146-R149). -/
def Obligations.TickIsrCountsEverySlotOnce : Prop :=
  ∀ s : State, s.Inv → s.fault = FaultSet.empty → s.program = none → s.isr = .tick 0 →
    ∃ (ms : List Move) (s' : State),
      (∀ m ∈ ms, m = .tickScan ∨ m = .software (encode .ret))
      ∧ (ms.filter (· = .tickScan)).length = s.cfg.nTimers + 1
      ∧ s.follow ms = .next s'
      ∧ s'.isr = .none ∧ s'.ie = true ∧ s'.cmp = s.cmp + s.cfg.pTick ∧ s'.main = s.main ∧ s'.events = s.events
      ∧ (∀ i < s.cfg.nTimers,
          ((s.slot i).run = false → s'.slot i = s.slot i)
          ∧ ((s.slot i).run = true → (s.slot i).remaining.toNat ≤ 1 →
              s'.slot i = { s.slot i with elapsed := (s.slot i).elapsed + 1#16, remaining := 0#16, run := false })
          ∧ ((s.slot i).run = true → 1 < (s.slot i).remaining.toNat →
              s'.slot i =
                { s.slot i with elapsed := (s.slot i).elapsed + 1#16, remaining := (s.slot i).remaining - 1#16 }))
      ∧ s'.trace = s.trace ++ (List.range s.cfg.nTimers).filterMap fun i =>
          if (s.slot i).run = true ∧ (s.slot i).remaining.toNat ≤ 1 ∧ (s.slot i).cb ≠ 0xFF#8 then
            some (.callback (s.slot i).cb (s.slot i).id)
          else none

/-! ## Event Dispatcher (41_dispatcher) -/

/-- 41_dispatcher R171: `POST`; a mask with a bit outside `DEFINED_MASK` raises the fault and leaves `E` unchanged. -/
def Obligations.PostSetsItsBits : Prop :=
  ∀ (mask : Word) (s : State),
    (mask &&& ~~~s.cfg.definedMask ≠ 0#32 →
      exec (.post mask) s = .next { s with
        fault := { s.fault with unmappedEvent := true }
        trace := s.trace ++ [.fault (.unmappedEvent mask)] })
    ∧ (mask &&& ~~~s.cfg.definedMask = 0#32 →
      exec (.post mask) s = .next { s with
        events := s.events ||| mask
        trace := s.trace ++ [.result .post .ok 0#16] })

/-- 41_dispatcher R173: the `DISP` scan step. That the handler's routine starts at its first operation is
70_reset_and_hazards R293. -/
def Obligations.ScanTestsAndClearsOneBit : Prop :=
  ∀ (s : State) (rest : List Move) (b : Fin 32), s.willTake .dispatcher rest → s.isr = .none → s.main = .scan b →
    (s.cfg.definedMask.getLsbD b.val = true ∧ s.events.getLsbD b.val = true →
      step s = .next { s with
        moves := rest
        events := s.events &&& ~~~(1#32 <<< b.val)
        trace := s.trace ++ [.dispatch b (s.cfg.handler b)]
        main := .handler b
        mainPos := 0 })
    ∧ (¬ (s.cfg.definedMask.getLsbD b.val = true ∧ s.events.getLsbD b.val = true) →
      ∃ c : Fin 32, c.val = (b.val + 1) % 32 ∧ step s = .next { s with moves := rest, main := .scan c })

/-- Over every step: a set bit of `E` is cleared only by the `DISP` step that dispatches it (41_dispatcher R178,
10_state R39), and a bit is set only by a `POST` of it or by a completion (R171, R172; 42_transport R197). -/
def Obligations.EventBitsChangeOnlyByTheirRules : Prop :=
  ∀ (s s' : State) (m : Move) (rest : List Move) (b : Fin 32),
    s.moves = m :: rest → m.isReset = false → step s = .next s' →
    (s.events.getLsbD b.val = true → s'.events.getLsbD b.val = false →
      m = .dispatcher ∧ s.isr = .none ∧ s.main = .scan b ∧ s'.main = .handler b
      ∧ s'.trace = s.trace ++ [.dispatch b (s.cfg.handler b)]
      ∧ ∀ c : Fin 32, c ≠ b → s'.events.getLsbD c.val = s.events.getLsbD c.val)
    ∧ (s.events.getLsbD b.val = false → s'.events.getLsbD b.val = true →
      (∃ mask, s.issues m = some (.post mask) ∧ mask.getLsbD b.val = true)
      ∨ ∃ t, b = (s.cfg.bus t).evDone ∧ (m = .interrupt (.bc t) ∨ ∃ p d, s.issues m = some (.enq t p d)))

/-- A drain pass, over every interleaving of the agents: its 32 `DISP` steps (41_dispatcher R175, R179) dispatch bits in
ascending order (R180), each at most once, only defined ones (R174), and every defined bit that is set when the pass
starts (R176, R178). -/
def Obligations.DrainPassDispatchesInOrder : Prop :=
  ∀ (s s' : State) (ms : List Move),
    s.cfg.wf = true → s.main = .scan 0 → (∀ m ∈ ms, m.isReset = false) →
    (ms.filter (· = .dispatcher)).length = 32 → s.follow ms = .next s' →
    let dispatched : List (Fin 32) := (s'.trace.drop s.trace.length).filterMap fun e =>
      match e with
      | .dispatch b _ => some b
      | _ => none
    dispatched.Pairwise (· < ·)
    ∧ (∀ b ∈ dispatched, s.cfg.definedMask.getLsbD b.val = true)
    ∧ (∀ b : Fin 32, s.cfg.definedMask.getLsbD b.val = true → s.events.getLsbD b.val = true → b ∈ dispatched)
    ∧ (s'.main = .scan 0 ∨ s'.main = .handler 31)

/-! ## Command-Queue Transport (42_transport) -/

/-- 42_transport R191: a row is occupied when its `tx_len` is not `EMPTY`; the ring is full exactly when all its rows are
occupied, so its capacity is R commands, and empty when row `rd` is not occupied. -/
def Obligations.RingCapacityIsItsRows : Prop :=
  ∀ (s : State) (t : Bus), s.Inv →
    (∀ r, (s.xport t).occupied r = true ↔ ((s.xport t).row r).txLen ≠ 0xFF#8)
    ∧ ((s.xport t).occupied (s.xport t).wr = true ↔ (s.xport t).count = (s.cfg.bus t).rows)
    ∧ ((s.xport t).occupied (s.xport t).rd = false ↔ (s.xport t).count = 0)

/-- 42_transport R192, R193, R252: `ENQ` refuses a command that is too long, then a full ring; else it writes row `wr`,
and on an Idle instance starts it in the same step. `StartRow` is stated in `StartRowFindsTheNextExchange`. -/
def Obligations.EnqAppendsARow : Prop :=
  ∀ (t : Bus) (payload : List Byte) (dests : List Addr) (s : State),
    let x := s.xport t
    let w := x.row x.wr
    let s1 : State := s.setXport t { x with
      rows := x.rows.set x.wr
        { txLen := BitVec.ofNat 8 payload.length
          rxLen := BitVec.ofNat 8 dests.length
          data := payload ++ w.data.drop payload.length
          dest := dests ++ w.dest.drop dests.length }
      wr := (x.wr + 1) % (s.cfg.bus t).rows }
    ((s.cfg.bus t).rowCap < payload.length + dests.length →
      exec (.enq t payload dests) s = .next { s with trace := s.trace ++ [.result .enq .badLength 0#16] })
    ∧ (payload.length + dests.length ≤ (s.cfg.bus t).rowCap → w.txLen ≠ 0xFF#8 →
      exec (.enq t payload dests) s = .next { s with
        met :=
          match t with
          | .a => { s.met with enqFullA := if s.met.enqFullA = 0xFFFF#16 then 0xFFFF#16 else s.met.enqFullA + 1#16 }
          | .b => { s.met with enqFullB := if s.met.enqFullB = 0xFFFF#16 then 0xFFFF#16 else s.met.enqFullB + 1#16 }
        trace := s.trace ++ [.result .enq .resourceExhausted 0#16] })
    ∧ (payload.length + dests.length ≤ (s.cfg.bus t).rowCap → w.txLen = 0xFF#8 → x.phase ≠ .idle →
      exec (.enq t payload dests) s = .next { s1 with trace := s1.trace ++ [.result .enq .ok 0#16] })
    ∧ (payload.length + dests.length ≤ (s.cfg.bus t).rowCap → w.txLen = 0xFF#8 → x.phase = .idle →
      exec (.enq t payload dests) s =
        .next { s1.startRow t with trace := (s1.startRow t).trace ++ [.result .enq .ok 0#16] })

/-- On an Idle instance `ENQ` starts the exchange of its own row at once (42_transport R194, R195, R196): the first
payload byte goes out; with no payload the fill byte; a zero-length row is retired at once and posts its completion
(R197). -/
def Obligations.EnqOnAnIdleInstanceStartsTheRow : Prop :=
  ∀ (t : Bus) (payload : List Byte) (dests : List Addr) (s : State),
    s.Inv → (s.xport t).phase = .idle → payload.length + dests.length ≤ (s.cfg.bus t).rowCap →
    let x := s.xport t
    let w := x.row x.wr
    let row : Row :=
      { txLen := BitVec.ofNat 8 payload.length
        rxLen := BitVec.ofNat 8 dests.length
        data := payload ++ w.data.drop payload.length
        dest := dests ++ w.dest.drop dests.length }
    let next := (x.wr + 1) % (s.cfg.bus t).rows
    (∀ b0 bs, payload = b0 :: bs →
      exec (.enq t payload dests) s = .next { s.setXport t
          { x with rows := x.rows.set x.wr row, wr := next, phase := .sending, txIdx := 1, infl := some b0 } with
        trace := s.trace ++ [.wire t b0, .result .enq .ok 0#16] })
    ∧ (payload = [] → dests ≠ [] →
      exec (.enq t payload dests) s = .next { s.setXport t
          { x with rows := x.rows.set x.wr row, wr := next, phase := .receiving, infl := some (s.cfg.bus t).fill } with
        trace := s.trace ++ [.wire t (s.cfg.bus t).fill, .result .enq .ok 0#16] })
    ∧ (payload = [] → dests = [] →
      exec (.enq t payload dests) s = .next { s.setXport t
          { x with rows := x.rows.set x.wr { row with txLen := 0xFF#8 }, wr := next, rd := next } with
        events := s.events ||| 1#32 <<< (s.cfg.bus t).evDone.val
        trace := s.trace ++ [.result .enq .ok 0#16] })

/-- 42_transport R197: `CompleteRow` marks the row free, advances the consumer cursor and posts `EV_DONE[t]`. -/
def Obligations.CompleteRowRetiresTheRow : Prop :=
  ∀ (t : Bus) (s : State),
    let x := s.xport t
    s.completeRow t = { s.setXport t { x with
        rows := x.rows.set x.rd { x.row x.rd with txLen := 0xFF#8 }
        rd := (x.rd + 1) % (s.cfg.bus t).rows } with
      events := s.events ||| 1#32 <<< (s.cfg.bus t).evDone.val }

/-- 42_transport R196: `StartRow` retires the zero-length rows at the consumer cursor, and then goes Idle on an empty row,
loads the first payload byte, or loads the fill byte. Each retirement empties one occupied row. -/
def Obligations.StartRowFindsTheNextExchange : Prop :=
  ∀ (t : Bus) (s : State),
    let x := s.xport t
    let w := x.row x.rd
    (w.txLen = 0xFF#8 → s.startRow t = s.setXport t { x with phase := .idle, txIdx := 0, rxIdx := 0 })
    ∧ (w.txLen ≠ 0xFF#8 → 0 < w.txLen.toNat →
      s.startRow t = { s.setXport t
          { x with phase := .sending, txIdx := 1, rxIdx := 0, infl := some (w.data.getD 0 0x00#8) } with
        trace := s.trace ++ [.wire t (w.data.getD 0 0x00#8)] })
    ∧ (w.txLen = 0x00#8 → 0 < w.rxLen.toNat →
      s.startRow t = { s.setXport t
          { x with phase := .receiving, txIdx := 0, rxIdx := 0, infl := some (s.cfg.bus t).fill } with
        trace := s.trace ++ [.wire t (s.cfg.bus t).fill] })
    ∧ (w.txLen = 0x00#8 → w.rxLen = 0x00#8 →
      s.startRow t = (s.completeRow t).startRow t ∧ ((s.completeRow t).xport t).count + 1 = x.count)

/-- 42_transport R198: `BYTEDONE` with a byte in flight. -/
def Obligations.ByteDoneCompletesTheByteInFlight : Prop :=
  ∀ (t : Bus) (v : Byte) (s : State), (s.xport t).infl ≠ none →
    exec (.bytedone t v) s = .next { s.setXport t { s.xport t with infl := none, rxData := v, bcPend := true } with
      trace := s.trace ++ [.rx t v] }

/-- The byte-complete ISR in phase Sending, one atomic step (42_transport R199, R200; 60_exceptions R262, R263). -/
def Obligations.ByteCompleteWhileSending : Prop :=
  ∀ (s : State) (rest : List Move) (t : Bus),
    s.willTake (.interrupt (.bc t)) rest → s.isr = .none → s.ie = true → (s.xport t).bcPend = true →
    (s.xport t).phase = .sending →
    let x := s.xport t
    let w := x.row x.rd
    let s1 : State := { s.setXport t { x with bcPend := false } with moves := rest, ie := false }
    (x.txIdx < w.txLen.toNat →
      step s = .next { s.setXport t
          { x with bcPend := false, infl := some (w.data.getD x.txIdx 0x00#8), txIdx := x.txIdx + 1 } with
        moves := rest
        trace := s.trace ++ [.wire t (w.data.getD x.txIdx 0x00#8)] })
    ∧ (w.txLen.toNat ≤ x.txIdx → 0 < w.rxLen.toNat →
      step s = .next { s.setXport t
          { x with bcPend := false, phase := .receiving, rxIdx := 0, infl := some (s.cfg.bus t).fill } with
        moves := rest
        trace := s.trace ++ [.wire t (s.cfg.bus t).fill] })
    ∧ (w.txLen.toNat ≤ x.txIdx → w.rxLen = 0x00#8 →
      step s = .next { (s1.completeRow t).startRow t with isr := .none, ie := true })

/-- The byte-complete ISR in phase Receiving, one atomic step (42_transport R199, R201). A received byte whose destination
is not valid faults with the byte unwritten: the writes before the raise, `BC_PEND <- 0` and `IE <- 0`, stay, and `DM`,
`rx_idx` and the row are not written (20_memory R80, 60_exceptions R255). Else the byte is stored, and the next fill byte
is loaded or the row retired and the next one started. -/
def Obligations.ByteCompleteWhileReceiving : Prop :=
  ∀ (s : State) (rest : List Move) (t : Bus),
    s.willTake (.interrupt (.bc t)) rest → s.isr = .none → s.ie = true → (s.xport t).bcPend = true →
    (s.xport t).phase = .receiving →
    let x := s.xport t
    let w := x.row x.rd
    let a := w.dest.getD x.rxIdx 0x0000#16
    let s1 : State := { s.setXport t { x with bcPend := false, rxIdx := x.rxIdx + 1 } with
      moves := rest
      ie := false
      dm := Memory.write s.dm a.toNat x.rxData
      trace := s.trace ++ [.mem a x.rxData] }
    (s.cfg.destOk a = false →
      step s = .next { s.setXport t { x with bcPend := false } with
        moves := rest
        ie := false
        fault := { s.fault with badDest := true }
        trace := s.trace ++ [.fault (.badDest a)] })
    ∧ (s.cfg.destOk a = true → x.rxIdx + 1 < w.rxLen.toNat →
      step s = .next { s.setXport t
          { x with bcPend := false, rxIdx := x.rxIdx + 1, infl := some (s.cfg.bus t).fill } with
        moves := rest
        dm := Memory.write s.dm a.toNat x.rxData
        trace := s.trace ++ [.mem a x.rxData, .wire t (s.cfg.bus t).fill] })
    ∧ (s.cfg.destOk a = true → w.rxLen.toNat ≤ x.rxIdx + 1 →
      step s = .next { (s1.completeRow t).startRow t with isr := .none, ie := true })

/-- 42_transport R202: the byte-complete ISR in phase Idle discards the byte. -/
def Obligations.ByteCompleteWhileIdleHasNoEffect : Prop :=
  ∀ (s : State) (rest : List Move) (t : Bus),
    s.willTake (.interrupt (.bc t)) rest → s.isr = .none → s.ie = true → (s.xport t).bcPend = true →
    (s.xport t).phase = .idle →
    step s = .next { s.setXport t { s.xport t with bcPend := false } with moves := rest }

/-- 42_transport R203, the round trip of a command on an Idle instance: x + y `Load`s, the payload bytes in order and then
y fill bytes; x + y byte-complete ISRs; the last y bytes that come back stored at the destinations in order; then exactly
one completion, after which the ring is empty and the instance Idle. -/
def Obligations.RoundTripOfACommand : Prop :=
  ∀ (s : State) (t : Bus) (payload : List Byte) (dests : List Addr) (vs : List Byte),
    s.Inv → s.fault = FaultSet.empty → s.program = none → s.isr = .none → s.ie = true →
    s.softwareRuns → (s.xport t).phase = .idle →
    1 ≤ payload.length + dests.length → payload.length + dests.length ≤ (s.cfg.bus t).rowCap →
    (∀ a ∈ dests, s.cfg.destOk a = true) → vs.length = payload.length + dests.length →
    let stored := dests.zip (vs.drop payload.length)
    ∃ s', s.follow (.software (encode (.enq t payload dests)) :: exchange t vs) = .next s'
      ∧ (s'.trace.drop s.trace.length).filterMap (fun e => match e with | .wire _ x => some x | _ => none)
          = payload ++ List.replicate dests.length (s.cfg.bus t).fill
      ∧ (s'.trace.drop s.trace.length).filterMap (fun e => match e with | .rx _ v => some v | _ => none) = vs
      ∧ (s'.trace.drop s.trace.length).filterMap (fun e => match e with | .mem a v => some (a, v) | _ => none) = stored
      ∧ s'.dm = stored.foldl (fun m c => Memory.write m c.1.toNat c.2) s.dm
      ∧ s'.events = s.events ||| 1#32 <<< (s.cfg.bus t).evDone.val
      ∧ (s'.xport t).atRest ∧ (s'.xport t).commands = []
      ∧ (s'.xport t).rd = ((s.xport t).rd + 1) % (s.cfg.bus t).rows
      ∧ s'.isr = .none ∧ s'.ie = true ∧ s'.main = s.main ∧ s'.slots = s.slots ∧ s'.met = s.met

/-- Every step leaves an instance's ring a queue of commands (42_transport R204): an `ENQ` that returns `OK` appends its
command, the rows retired by the step are the oldest ones, and all of them but the one in exchange have length zero
(R196). A step that retires a row leaves `EV_DONE[t]` set (R197). -/
def Obligations.RingIsAQueueOfCommands : Prop :=
  ∀ (s s' : State) (m : Move) (rest : List Move) (t : Bus),
    s.Inv → s.moves = m :: rest → m.isReset = false → step s = .next s' →
    let accepted : List (List Byte × List Addr) :=
      match s.issues m with
      | some (.enq u p d) => if u = t ∧ s'.trace.getLast? = some (.result .enq .ok 0#16) then [(p, d)] else []
      | _ => []
    ∃ k ≤ ((s.xport t).commands ++ accepted).length,
      (s'.xport t).commands = ((s.xport t).commands ++ accepted).drop k
      ∧ (∀ c ∈ (((s.xport t).commands ++ accepted).take k).tail, c = ([], []))
      ∧ (0 < k → s'.events.getLsbD (s.cfg.bus t).evDone.val = true)

/-- 42_transport R206: over every step, an instance changes only by its own `ENQ`, its own peripheral's completion and its
own byte-complete interrupt. -/
def Obligations.InstancesAreIndependent : Prop :=
  ∀ (s s' : State) (m : Move) (rest : List Move) (t : Bus),
    s.moves = m :: rest → m.isReset = false → step s = .next s' → s'.xport t ≠ s.xport t →
    m.agent = some (.per t) ∨ m = .interrupt (.bc t) ∨ ∃ p d, s.issues m = some (.enq t p d)

/-- Over every step: the block writes a byte of data memory only in the byte-complete ISR in phase Receiving, at a valid
destination, the byte received, with its trace entry (20_memory R80, R85); every other byte reads as before. A write by
software outside the block is a move of its own, and the later write is what the byte holds (R81, R88; log 7). -/
def Obligations.DataMemoryChangesOnlyAtDestinations : Prop :=
  ∀ (s s' : State) (m : Move) (rest : List Move) (a : Nat),
    s.moves = m :: rest → m.isReset = false → step s = .next s' → s'.readByte a ≠ s.readByte a →
    (∃ b v, m = .externalWrite b v ∧ a = b.toNat ∧ s'.readByte a = some v)
    ∨ ∃ t, m = .interrupt (.bc t) ∧ (s.xport t).phase = .receiving
        ∧ a = (((s.xport t).row (s.xport t).rd).dest.getD (s.xport t).rxIdx 0x0000#16).toNat
        ∧ s.cfg.destOk (((s.xport t).row (s.xport t).rd).dest.getD (s.xport t).rxIdx 0x0000#16) = true
        ∧ s'.readByte a = some (s.xport t).rxData
        ∧ TraceEntry.mem (((s.xport t).row (s.xport t).rd).dest.getD (s.xport t).rxIdx 0x0000#16) (s.xport t).rxData
            ∈ s'.trace.drop s.trace.length

/-! ## System operations (43_system) and results -/

/-- 43_system R231-R234: `RET` from a callback, from initialisation, and from a handler with interrupts enabled and with
them masked. It appends no result. -/
def Obligations.RetLeavesItsContext : Prop :=
  ∀ s : State,
    (∀ i, s.isr = .callback i → exec .ret s = .next { s with isr := .tick (i + 1) })
    ∧ (s.isr = .none → s.main = .init → exec .ret s = .next { s with ie := true, main := .scan 0 })
    ∧ (∀ b, s.isr = .none → s.main = .handler b → s.ie = true →
      ∃ c : Fin 32, c.val = (b.val + 1) % 32 ∧ exec .ret s = .next { s with main := .scan c })
    ∧ (∀ b, s.isr = .none → s.main = .handler b → s.ie = false →
      exec .ret s = .next { s with
        fault := { s.fault with leftMasked := true }
        trace := s.trace ++ [.fault (.leftMasked b)] })

/-- Where the spec gives an instruction no step, it is refused by name: `RET` where no software routine runs (43_system
R231, R239), `BYTEDONE` with no byte in flight (42_transport R198, 10_state R52). The refusals are the model's (log 15). -/
def Obligations.InstructionsWithoutAStepAreRefused : Prop :=
  (∀ s : State, (∃ i, s.isr = .tick i) ∨ s.isr = .none ∧ (∃ b, s.main = .scan b) →
    exec .ret s = .refused .noSoftwareContext)
  ∧ ∀ (t : Bus) (v : Byte) (s : State), (s.xport t).infl = none → exec (.bytedone t v) s = .refused .nothingInFlight

/-- 43_system R235: `CSENTER` clears `IE` and returns its prior value. -/
def Obligations.CsenterSavesAndMasks : Prop :=
  ∀ s : State,
    exec .csenter s = .next { s with
      ie := false
      trace := s.trace ++ [.result .csenter .ok (if s.ie then 0x0001#16 else 0x0000#16)] }

/-- 43_system R236: `CSEXIT s` writes `IE`, but `CSEXIT 1` in ISR context is refused. -/
def Obligations.CsexitRestoresTheEnable : Prop :=
  ∀ (v : Bool) (s : State),
    (s.isr ≠ .none ∧ v = true →
      exec (.csexit v) s = .next { s with trace := s.trace ++ [.result .csexit .wrongContext 0#16] })
    ∧ (¬ (s.isr ≠ .none ∧ v = true) →
      exec (.csexit v) s = .next { s with ie := v, trace := s.trace ++ [.result .csexit .ok 0#16] })

/-- 43_system R237: `RDMETRIC` returns the metric and writes nothing; every 2-bit selector names one. -/
def Obligations.RdmetricReadsAMetric : Prop :=
  ∀ s : State,
    exec (.rdmetric 0#2) s = .next { s with trace := s.trace ++ [.result .rdmetric .ok s.met.timerFull] }
    ∧ exec (.rdmetric 1#2) s = .next { s with trace := s.trace ++ [.result .rdmetric .ok s.met.config] }
    ∧ exec (.rdmetric 2#2) s = .next { s with trace := s.trace ++ [.result .rdmetric .ok s.met.enqFullA] }
    ∧ exec (.rdmetric 3#2) s = .next { s with trace := s.trace ++ [.result .rdmetric .ok s.met.enqFullB] }

/-- 43_system R238: an operation that decodes to `ILLEGAL_OP` changes only the trace; it raises no fault and does not end
the routine. Under a program the routine's position moves on (70_reset_and_hazards R293). -/
def Obligations.IllegalOperationOnlyReports : Prop :=
  ∀ (s : State) (p : OpWords) (rest : List Move) (e : DecodeError), s.softwareRuns → decodeOp p = .error e →
    (s.willTake (.software p) rest → s.program = none →
      step s = .next { s with moves := rest, trace := s.trace ++ [.result .illegal .illegalOp 0#16] })
    ∧ (∀ pr, s.willTake .routine rest → s.program = some pr → s.nextOp = some p →
      step s = .next { s.advance with moves := rest, trace := s.trace ++ [.result .illegal .illegalOp 0#16] })

/-- 30_encoding R104: every operation but `RET` ends with a status: its result is the last entry of the step and delivers
the word with the code in [31:24], zero in [23:16] and the value in [15:0]; the value is 0 unless the operation's rule says
otherwise, and always on a failure. A status is one that the table allows the operation. A `POST` that faults ends at its
raise (41_dispatcher R171). -/
def Obligations.EveryOperationEndsWithItsStatus : Prop :=
  (Status.ok.code = 0x00#8 ∧ Status.resourceExhausted.code = 0x01#8 ∧ Status.notFound.code = 0x02#8
    ∧ Status.configurationError.code = 0x03#8 ∧ Status.badLength.code = 0x04#8 ∧ Status.illegalOp.code = 0x05#8
    ∧ Status.wrongContext.code = 0x06#8)
  ∧ (∀ (i : Instr) (s : State), i.isEvent = false → i ≠ .ret →
      (∀ mask, i = .post mask → mask &&& ~~~s.cfg.definedMask = 0#32) →
      ∃ (s' : State) (before : List TraceEntry) (op : OpName) (st : Status) (v : Half),
        exec i s = .next s'
        ∧ s'.trace = s.trace ++ before ++ [.result op st v]
        ∧ (∀ e ∈ before, ∃ t x, e = .wire t x)
        ∧ s'.delivered = some (st.code ++ (0x00#8 : Byte) ++ v)
        ∧ (st ≠ .ok → v = 0#16)
        ∧ match i with
          | .register _ _ => op = .register ∧ v = 0#16 ∧ st ∈ [.ok, .resourceExhausted, .configurationError]
          | .start _ _ => op = .start ∧ v = 0#16 ∧ st ∈ [.ok, .notFound]
          | .stop _ => op = .stop ∧ v = 0#16 ∧ st ∈ [.ok, .notFound]
          | .elapsed _ => op = .elapsed ∧ st ∈ [.ok, .notFound]
          | .post _ => op = .post ∧ v = 0#16 ∧ st = .ok
          | .enq _ _ _ => op = .enq ∧ v = 0#16 ∧ st ∈ [.ok, .badLength, .resourceExhausted]
          | .csenter => op = .csenter ∧ st = .ok
          | .csexit _ => op = .csexit ∧ v = 0#16 ∧ st ∈ [.ok, .wrongContext]
          | .rdmetric _ => op = .rdmetric ∧ st = .ok
          | .ret => False
          | .tick => False
          | .bytedone _ _ => False)
  ∧ ∀ s s' : State, exec .ret s = .next s' → ∀ e ∈ s'.trace.drop s.trace.length, e.word = none

/-- Over every step: a metric changes only when the operation it counts is refused for its reason, by one, and never from
0xFFFF (60_exceptions R253, 10_state R45). -/
def Obligations.MetricsCountRefusals : Prop :=
  ∀ (s s' : State) (m : Move) (rest : List Move) (k : Metric),
    s.moves = m :: rest → m.isReset = false → step s = .next s' → s'.met.get k ≠ s.met.get k →
    s.met.get k ≠ 0xFFFF#16 ∧ s'.met.get k = s.met.get k + 1#16
    ∧ match k with
      | .timerFull => (∃ id cb, s.issues m = some (.register id cb))
          ∧ s'.trace = s.trace ++ [.result .register .resourceExhausted 0#16]
      | .config => (∃ id cb, s.issues m = some (.register id cb))
          ∧ s'.trace = s.trace ++ [.result .register .configurationError 0#16]
      | .enqFullA => (∃ p d, s.issues m = some (.enq .a p d))
          ∧ s'.trace = s.trace ++ [.result .enq .resourceExhausted 0#16]
      | .enqFullB => (∃ p d, s.issues m = some (.enq .b p d))
          ∧ s'.trace = s.trace ++ [.result .enq .resourceExhausted 0#16]

/-- The frame of every instruction: none of them writes data memory, the configuration, `CMP`, a program position or the
schedule; the trace is only appended to; and each leaves every part of the state that its rule does not list as written,
down to the fields of the slot, the row, the instance, the metrics and the fault set it writes to (40_timer R142-R145,
41_dispatcher R171, 42_transport R192-R198, 43_system R231-R237, 60_exceptions R258). The rows that `ENQ` changes beside
row `wr` are the zero-length ones that its `StartRow` retires (R196, R197). -/
def Obligations.InstructionsWriteOnlyWhatTheirRulesList : Prop :=
  ∀ (i : Instr) (s s' : State), exec i s = .next s' →
    (∀ a, s'.readByte a = s.readByte a)
    ∧ s' = { s' with
        cfg := s.cfg, cmp := s.cmp, dm := s.dm, program := s.program, mainPos := s.mainPos, cbPos := s.cbPos
        moves := s.moves }
    ∧ s.trace <+: s'.trace
    ∧ match i with
      | .register _ _ => s' = { s with slots := s'.slots, nreg := s'.nreg, met := s'.met, trace := s'.trace }
          ∧ s'.slots.length = s.slots.length
          ∧ (∀ k, k ≠ s.nreg → s'.slot k = s.slot k)
          ∧ s'.met.enqFullA = s.met.enqFullA ∧ s'.met.enqFullB = s.met.enqFullB
      | .start id _ => s' = { s with slots := s'.slots, trace := s'.trace }
          ∧ s'.slots.length = s.slots.length
          ∧ (∀ k, s.find id ≠ some k → s'.slot k = s.slot k)
          ∧ ∀ k, s.find id = some k → s'.slot k = { s.slot k with
              run := (s'.slot k).run, elapsed := (s'.slot k).elapsed, remaining := (s'.slot k).remaining }
      | .stop id => s' = { s with slots := s'.slots, trace := s'.trace }
          ∧ s'.slots.length = s.slots.length
          ∧ (∀ k, s.find id ≠ some k → s'.slot k = s.slot k)
          ∧ ∀ k, s.find id = some k → s'.slot k = { s.slot k with run := (s'.slot k).run }
      | .elapsed _ => s' = { s with trace := s'.trace }
      | .post mask => s' = { s with events := s'.events, fault := s'.fault, trace := s'.trace }
          ∧ (∀ b : Fin 32, mask.getLsbD b.val = false → s'.events.getLsbD b.val = s.events.getLsbD b.val)
          ∧ s'.fault = { s.fault with unmappedEvent := s'.fault.unmappedEvent }
      | .enq t p d =>
          let x := s.xport t
          let x' := s'.xport t
          s' = { s.setXport t x' with events := s'.events, met := s'.met, trace := s'.trace }
          ∧ (s'.events = s.events ∨ s'.events = s.events ||| 1#32 <<< (s.cfg.bus t).evDone.val)
          ∧ (∀ k, k ≠ Metric.enqFull t → s'.met.get k = s.met.get k)
          ∧ x'.bcPend = x.bcPend ∧ x'.rxData = x.rxData ∧ x'.rows.length = x.rows.length
          ∧ (∀ r, r ≠ x.wr → x'.row r = x.row r
              ∨ x.phase = .idle ∧ (x.row r).txLen = 0x00#8 ∧ (x.row r).rxLen = 0x00#8
                ∧ x'.row r = { x.row r with txLen := 0xFF#8 })
          ∧ (∀ j, p.length ≤ j → (x'.row x.wr).data[j]? = (x.row x.wr).data[j]?)
          ∧ (∀ j, d.length ≤ j → (x'.row x.wr).dest[j]? = (x.row x.wr).dest[j]?)
          ∧ (x.phase ≠ .idle → s'.events = s.events ∧ x' = { x with rows := x'.rows, wr := x'.wr })
      | .ret =>
          (∀ k, s.isr = .callback k → s' = { s with isr := s'.isr })
          ∧ (s.isr = .none → s.main = .init → s' = { s with ie := s'.ie, main := s'.main })
          ∧ (∀ b, s.isr = .none → s.main = .handler b →
              s' = { s with main := s'.main, fault := s'.fault, trace := s'.trace }
              ∧ s'.fault = { s.fault with leftMasked := s'.fault.leftMasked })
      | .csenter => s' = { s with ie := s'.ie, trace := s'.trace }
      | .csexit _ => s' = { s with ie := s'.ie, trace := s'.trace }
      | .rdmetric _ => s' = { s with trace := s'.trace }
      | .tick => s' = { s with tickPend := s'.tickPend }
      | .bytedone t _ => s' = { s.setXport t { s.xport t with
            infl := (s'.xport t).infl, rxData := (s'.xport t).rxData, bcPend := (s'.xport t).bcPend } with
          trace := s'.trace }

/-! ## Interrupts (60_exceptions) -/

/-- 60_exceptions R258: the event word `TICK` sets `TICK_PEND`; when it is already set, nothing changes and the tick is
lost. -/
def Obligations.TickSetsItsPendingFlag : Prop :=
  ∀ s : State, exec .tick s = .next { s with tickPend := true } ∧ (s.tickPend = true → exec .tick s = .next s)

/-- Entry to the tick ISR (60_exceptions R262, 40_timer R146): `main` stays as it was. -/
def Obligations.TickInterruptEntry : Prop :=
  ∀ (s : State) (rest : List Move), s.willTake (.interrupt .tick) rest → s.isr = .none → s.ie = true →
    s.tickPend = true →
    step s = .next { s with moves := rest, tickPend := false, ie := false, isr := .tick 0 }

/-- 10_state R37: over every step, `IE` is written only by `CSENTER`, `CSEXIT`, ISR entry, ISR return and `RET` from
`Init`. -/
def Obligations.OnlyTheListedWritersChangeTheEnable : Prop :=
  ∀ (s s' : State) (m : Move) (rest : List Move),
    s.moves = m :: rest → m.isReset = false → step s = .next s' → s'.ie ≠ s.ie →
    (s'.ie = false ∧
      (s.issues m = some .csenter ∨ s.issues m = some (.csexit false) ∨ m = .interrupt .tick
        ∨ ∃ t a, m = .interrupt (.bc t) ∧ s'.trace = s.trace ++ [.fault (.badDest a)]))
    ∨ (s'.ie = true ∧
      (s.issues m = some (.csexit true) ∧ s.isr = .none
        ∨ s.issues m = some .ret ∧ s.isr = .none ∧ s.main = .init
        ∨ m = .tickScan ∧ (∃ i, s.isr = .tick i) ∧ s'.isr = .none))

/-- While an ISR runs (60_exceptions R264, 10_state R51, 40_timer R148): interrupts stay masked, `main` does not change, no
pending flag is lost, and only the tick ISR's final step leaves the ISR, with interrupts enabled. -/
def Obligations.InterruptContextStaysMasked : Prop :=
  ∀ (s s' : State) (m : Move) (rest : List Move),
    s.Inv → s.isr ≠ .none → s.moves = m :: rest → m.isReset = false → step s = .next s' →
    s'.main = s.main
    ∧ (∀ src, s.pending src = true → s'.pending src = true)
    ∧ (s'.isr ≠ .none → s'.ie = false)
    ∧ (s'.isr = .none → m = .tickScan ∧ s.isr = .tick s.cfg.nTimers ∧ s'.ie = true)

/-! ## The end of a run and the observation -/

/-- 70_reset_and_hazards R305: in a quiescent state the only enabled steps are `DISP` steps that dispatch nothing and
`TICKSRC`, and a tick leads to a tick ISR that changes only `TICK_PEND`, `isr`, `IE` and `CMP`, and ends quiescent. -/
def Obligations.QuiescentStateOnlyScansAndTicks : Prop :=
  ∀ s : State, s.Inv → s.Quiescent →
    (∀ g, s.enabled g = true ↔ g = .disp ∨ g = .ticksrc)
    ∧ (∃ b, s.follow [.dispatcher] = .next { s with moves := [], main := .scan b })
    ∧ s.follow ([.event 0xE0000000#32, .interrupt .tick] ++ List.replicate (s.cfg.nTimers + 1) .tickScan)
        = .next { s with moves := [], cmp := s.cmp + s.cfg.pTick }

/-- The state-register numbering of 10_state R54: each field at its bits. That `SR4` reads 0 in main b when `main` is Init
and in isr i when `isr` is None is the model's choice (log 20). -/
def Obligations.StateRegisterLayout : Prop :=
  ∀ s : State, s.Inv →
    s.sr 0 = some s.events
    ∧ (∃ w, s.sr 1 = some w ∧ w.getLsbD 0 = s.ie ∧ w.getLsbD 1 = s.tickPend ∧ w.getLsbD 2 = s.busA.bcPend
        ∧ w.getLsbD 3 = s.busB.bcPend ∧ w.extractLsb' 4 28 = 0#28)
    ∧ (∃ w, s.sr 2 = some w ∧ w.extractLsb' 0 16 = s.cmp ∧ w.extractLsb' 16 16 = 0#16)
    ∧ (∃ w, s.sr 3 = some w ∧ w.toNat = s.nreg)
    ∧ (∃ w, s.sr 4 = some w
        ∧ (∀ b, s.main = .scan b → w.extractLsb' 0 8 = 1#8 ∧ (w.extractLsb' 8 8).toNat = b.val)
        ∧ (∀ b, s.main = .handler b → w.extractLsb' 0 8 = 2#8 ∧ (w.extractLsb' 8 8).toNat = b.val)
        ∧ (s.main = .init → w.extractLsb' 0 16 = 0#16)
        ∧ (∀ i, s.isr = .tick i → w.extractLsb' 16 8 = 1#8 ∧ (w.extractLsb' 24 8).toNat = i)
        ∧ (∀ i, s.isr = .callback i → w.extractLsb' 16 8 = 2#8 ∧ (w.extractLsb' 24 8).toNat = i)
        ∧ (s.isr = .none → w.extractLsb' 16 16 = 0#16))
    ∧ (∃ w, s.sr 5 = some w ∧ w.getLsbD 0 = s.fault.unmappedEvent ∧ w.getLsbD 1 = s.fault.badDest
        ∧ w.getLsbD 2 = s.fault.leftMasked ∧ w.extractLsb' 3 29 = 0#29)
    ∧ (∃ w, s.sr 6 = some w ∧ w.extractLsb' 0 16 = s.met.timerFull ∧ w.extractLsb' 16 16 = s.met.config)
    ∧ (∃ w, s.sr 7 = some w ∧ w.extractLsb' 0 16 = s.met.enqFullA ∧ w.extractLsb' 16 16 = s.met.enqFullB)
    ∧ (∀ t : Bus, ∃ w u, s.sr (match t with | .a => 8 | .b => 10) = some w
        ∧ s.sr (match t with | .a => 9 | .b => 11) = some u
        ∧ (w.extractLsb' 0 2).toNat = (match (s.xport t).phase with | .idle => 0 | .sending => 1 | .receiving => 2)
        ∧ w.getLsbD 2 = (s.xport t).infl.isSome ∧ w.extractLsb' 3 5 = 0#5
        ∧ w.extractLsb' 8 8 = (s.xport t).infl.getD 0x00#8
        ∧ (w.extractLsb' 16 8).toNat = (s.xport t).wr ∧ (w.extractLsb' 24 8).toNat = (s.xport t).rd
        ∧ (u.extractLsb' 0 8).toNat = (s.xport t).txIdx ∧ (u.extractLsb' 8 8).toNat = (s.xport t).rxIdx
        ∧ u.extractLsb' 16 8 = (s.xport t).rxData ∧ u.extractLsb' 24 8 = 0#8)
    ∧ ∀ i < s.cfg.nTimers, ∃ w u, s.sr (0x100 + 2 * i) = some w ∧ s.sr (0x101 + 2 * i) = some u
        ∧ w.getLsbD 0 = (s.slot i).reg ∧ w.getLsbD 1 = (s.slot i).run ∧ w.extractLsb' 2 6 = 0#6
        ∧ w.extractLsb' 8 8 = (s.slot i).id ∧ w.extractLsb' 16 8 = (s.slot i).cb ∧ w.extractLsb' 24 8 = 0#8
        ∧ u.extractLsb' 0 16 = (s.slot i).elapsed ∧ u.extractLsb' 16 16 = (s.slot i).remaining
end

