-- ==== Sys2Proof/Laws/Decode.lean ====
section
/-! SUPPORT. The fields of a word written from its bytes, and the packing of ENQ's operand words. -/

namespace Sys2Proof

/-! ## A word and its bytes -/

theorem wordOfBytes_toNat (a b c d : Byte) :
    (wordOfBytes a b c d).toNat = a.toNat * 2 ^ 24 + b.toNat * 2 ^ 16 + c.toNat * 2 ^ 8 + d.toNat := by
  have := a.isLt
  have := b.isLt
  have := c.isLt
  have := d.isLt
  simp only [wordOfBytes, BitVec.toNat_append]
  rw [← Nat.shiftLeft_add_eq_or_of_lt (by omega), ← Nat.shiftLeft_add_eq_or_of_lt (by omega),
    ← Nat.shiftLeft_add_eq_or_of_lt (by omega)]
  simp only [Nat.shiftLeft_eq]
  omega

@[simp] theorem opcodeOf_wordOfBytes (a b c d : Byte) : opcodeOf (wordOfBytes a b c d) = a := by
  have := a.isLt
  have := b.isLt
  have := c.isLt
  have := d.isLt
  apply BitVec.eq_of_toNat_eq
  simp only [opcodeOf, BitVec.extractLsb'_toNat, wordOfBytes_toNat, Nat.shiftRight_eq_div_pow]
  omega

@[simp] theorem idField_wordOfBytes (a b c d : Byte) : idField (wordOfBytes a b c d) = b := by
  have := a.isLt
  have := b.isLt
  have := c.isLt
  have := d.isLt
  apply BitVec.eq_of_toNat_eq
  simp only [idField, BitVec.extractLsb'_toNat, wordOfBytes_toNat, Nat.shiftRight_eq_div_pow]
  omega

@[simp] theorem txField_wordOfBytes (a b c d : Byte) : txField (wordOfBytes a b c d) = c := by
  have := a.isLt
  have := b.isLt
  have := c.isLt
  have := d.isLt
  apply BitVec.eq_of_toNat_eq
  simp only [txField, BitVec.extractLsb'_toNat, wordOfBytes_toNat, Nat.shiftRight_eq_div_pow]
  omega

@[simp] theorem lowByte_wordOfBytes (a b c d : Byte) : lowByte (wordOfBytes a b c d) = d := by
  have := a.isLt
  have := b.isLt
  have := c.isLt
  have := d.isLt
  apply BitVec.eq_of_toNat_eq
  simp only [lowByte, BitVec.extractLsb'_toNat, wordOfBytes_toNat, Nat.shiftRight_eq_div_pow]
  omega

theorem busField_wordOfBytes (a b c d : Byte) :
    busField (wordOfBytes a b c d) = if b.getLsbD 0 then .b else .a := by
  simp only [busField, wordOfBytes, BitVec.getLsbD_append]
  rfl

theorem wordOfBytes_and (a b c d a' b' c' d' : Byte) :
    wordOfBytes a b c d &&& wordOfBytes a' b' c' d' = wordOfBytes (a &&& a') (b &&& b') (c &&& c') (d &&& d') := by
  unfold wordOfBytes
  apply BitVec.eq_of_getLsbD_eq
  intro i hi
  simp only [BitVec.getLsbD_and, BitVec.getLsbD_append]
  split <;> [rfl; split] <;> [rfl; split] <;> rfl

theorem wordOfBytes_inj {a b c d a' b' c' d' : Byte} (h : wordOfBytes a b c d = wordOfBytes a' b' c' d') :
    a = a' ∧ b = b' ∧ c = c' ∧ d = d' :=
  ⟨by simpa using congrArg opcodeOf h, by simpa using congrArg idField h, by simpa using congrArg txField h,
    by simpa using congrArg lowByte h⟩

/-- A word is its four bytes. -/
theorem word_eq_wordOfBytes (w : Word) : w = wordOfBytes (opcodeOf w) (idField w) (txField w) (lowByte w) := by
  have := w.isLt
  apply BitVec.eq_of_toNat_eq
  simp only [wordOfBytes_toNat, opcodeOf, idField, txField, lowByte, BitVec.extractLsb'_toNat,
    Nat.shiftRight_eq_div_pow]
  omega

theorem start_word_eq (id : Byte) (dur : Half) :
    (0x02#8 ++ id ++ dur : Word) = wordOfBytes 0x02#8 id (dur.extractLsb' 8 8) (dur.extractLsb' 0 8) := by
  have := id.isLt
  have := dur.isLt
  apply BitVec.eq_of_toNat_eq
  simp only [BitVec.toNat_append, wordOfBytes_toNat, BitVec.extractLsb'_toNat, Nat.shiftRight_eq_div_pow]
  rw [← Nat.shiftLeft_add_eq_or_of_lt (by omega), ← Nat.shiftLeft_add_eq_or_of_lt (by omega)]
  simp only [Nat.shiftLeft_eq, BitVec.toNat_ofNat]
  omega

theorem lowHalf_append (x : BitVec 16) (d : Half) : lowHalf (x ++ d) = d := by
  have := x.isLt
  have := d.isLt
  apply BitVec.eq_of_toNat_eq
  simp only [lowHalf, BitVec.extractLsb'_toNat, BitVec.toNat_append, Nat.shiftRight_eq_div_pow]
  rw [← Nat.shiftLeft_add_eq_or_of_lt (by omega)]
  simp only [Nat.shiftLeft_eq]
  omega

theorem highHalf_append (x : BitVec 16) (d : Half) : (x ++ d : Word).extractLsb' 16 16 = x := by
  have := x.isLt
  have := d.isLt
  apply BitVec.eq_of_toNat_eq
  simp only [BitVec.extractLsb'_toNat, BitVec.toNat_append, Nat.shiftRight_eq_div_pow]
  rw [← Nat.shiftLeft_add_eq_or_of_lt (by omega)]
  simp only [Nat.shiftLeft_eq]
  omega

theorem busField_busByte (t : Bus) (a c d : Byte) : busField (wordOfBytes a (busByte t) c d) = t := by
  rw [busField_wordOfBytes]
  cases t <;> rfl

/-! ## ENQ operand words -/

theorem packPayload_length (bs : List Byte) : (packPayload bs).length = dataWords bs.length := by
  induction bs using packPayload.induct with
  | case1 => rfl
  | case2 b0 => simp [packPayload, dataWords]
  | case3 b0 b1 => simp [packPayload, dataWords]
  | case4 b0 b1 b2 => simp [packPayload, dataWords]
  | case5 b0 b1 b2 b3 rest ih =>
    simp only [packPayload, List.length_cons, ih, dataWords]
    omega

/-- The lane j < 4 of the first word. -/
theorem payloadByte_lane (a b c d : Byte) (ws : List Word) :
    payloadByte (wordOfBytes a b c d :: ws) 0 = d ∧ payloadByte (wordOfBytes a b c d :: ws) 1 = c ∧
      payloadByte (wordOfBytes a b c d :: ws) 2 = b ∧ payloadByte (wordOfBytes a b c d :: ws) 3 = a :=
  ⟨lowByte_wordOfBytes a b c d, txField_wordOfBytes a b c d, idField_wordOfBytes a b c d,
    opcodeOf_wordOfBytes a b c d⟩

/-- The lanes of the words after the first. -/
theorem payloadByte_succ (w : Word) (ws : List Word) (j : Nat) : payloadByte (w :: ws) (j + 4) = payloadByte ws j := by
  have h1 : (j + 4) / 4 = j / 4 + 1 := by omega
  have h2 : (j + 4) % 4 = j % 4 := by omega
  simp only [payloadByte, h1, h2, List.getD_cons_succ]

/-- Each payload byte is read back from its lane (30_encoding R107). -/
theorem payloadByte_packPayload (bs : List Byte) (ws : List Word) (j : Nat) (h : j < bs.length) :
    payloadByte (packPayload bs ++ ws) j = bs[j] := by
  induction bs using packPayload.induct generalizing j with
  | case1 => simp at h
  | case2 b0 =>
    obtain rfl : j = 0 := by simpa using h
    exact (payloadByte_lane ..).1
  | case3 b0 b1 =>
    have hj : j = 0 ∨ j = 1 := by simp at h; omega
    rcases hj with rfl | rfl
    · exact (payloadByte_lane ..).1
    · exact (payloadByte_lane ..).2.1
  | case4 b0 b1 b2 =>
    have hj : j = 0 ∨ j = 1 ∨ j = 2 := by simp at h; omega
    rcases hj with rfl | rfl | rfl
    · exact (payloadByte_lane ..).1
    · exact (payloadByte_lane ..).2.1
    · exact (payloadByte_lane ..).2.2.1
  | case5 b0 b1 b2 b3 rest ih =>
    simp only [packPayload, List.cons_append]
    by_cases h4 : j < 4
    · have hj : j = 0 ∨ j = 1 ∨ j = 2 ∨ j = 3 := by omega
      rcases hj with rfl | rfl | rfl | rfl
      · exact (payloadByte_lane ..).1
      · exact (payloadByte_lane ..).2.1
      · exact (payloadByte_lane ..).2.2.1
      · exact (payloadByte_lane ..).2.2.2
    · obtain ⟨k, rfl⟩ : ∃ k, j = k + 4 := ⟨j - 4, by omega⟩
      rw [payloadByte_succ, ih k (by simpa using h)]
      simp

theorem unpackPayload_packPayload (bs : List Byte) (ws : List Word) :
    unpackPayload bs.length (packPayload bs ++ ws) = bs := by
  apply List.ext_getElem
  · simp [unpackPayload]
  · intro j h1 h2
    simp [unpackPayload, payloadByte_packPayload bs ws j h2]

theorem lanesClear_packPayload (bs : List Byte) (ws : List Word) :
    lanesClear bs.length (packPayload bs ++ ws) = true := by
  induction bs using packPayload.induct with
  | case1 => rfl
  | case2 b0 =>
    have := b0.isLt
    simp only [lanesClear, Bool.or_eq_true, decide_eq_true_eq]
    right
    apply BitVec.eq_of_toNat_eq
    simp [packPayload, dataWords, wordOfBytes_toNat, Nat.shiftRight_eq_div_pow]
    omega
  | case3 b0 b1 =>
    have := b0.isLt
    have := b1.isLt
    simp only [lanesClear, Bool.or_eq_true, decide_eq_true_eq]
    right
    apply BitVec.eq_of_toNat_eq
    simp [packPayload, dataWords, wordOfBytes_toNat, Nat.shiftRight_eq_div_pow]
    omega
  | case4 b0 b1 b2 =>
    have := b0.isLt
    have := b1.isLt
    have := b2.isLt
    simp only [lanesClear, Bool.or_eq_true, decide_eq_true_eq]
    right
    apply BitVec.eq_of_toNat_eq
    simp [packPayload, dataWords, wordOfBytes_toNat, Nat.shiftRight_eq_div_pow]
    omega
  | case5 b0 b1 b2 b3 rest ih =>
    simp only [lanesClear, Bool.or_eq_true, decide_eq_true_eq] at ih ⊢
    by_cases hr : rest.length % 4 = 0
    · left
      simp only [List.length_cons]
      omega
    · right
      have h1 : dataWords (b0 :: b1 :: b2 :: b3 :: rest).length - 1 = dataWords rest.length - 1 + 1 := by
        simp only [dataWords, List.length_cons]
        omega
      have h2 : (b0 :: b1 :: b2 :: b3 :: rest).length % 4 = rest.length % 4 := by
        simp only [List.length_cons]
        omega
      rw [h1, h2, packPayload, List.cons_append, List.getD_cons_succ]
      exact ih.resolve_left hr

theorem unpackDests_packDests (ds : List Addr) : unpackDests (packDests ds) = ds := by
  simp [unpackDests, packDests, Function.comp_def, lowHalf_append]

theorem destsClear_packDests (ds : List Addr) : destsClear (packDests ds) = true := by
  simp [destsClear, packDests, highHalf_append]

/-- The operand words of `ENQ` behind the data words are the destination words. -/
theorem drop_packPayload (bs : List Byte) (ws : List Word) :
    (packPayload bs ++ ws).drop (dataWords bs.length) = ws := by
  rw [← packPayload_length, List.drop_left]

theorem operandCount_le (w : Word) : operandCount w ≤ 319 := by
  have h1 := (txField w).isLt
  have h2 := (lowByte w).isLt
  unfold operandCount dataWords
  split
  · omega
  · split <;> omega

end Sys2Proof
end

