-- ==== Sys2Proof/Laws/State.lean ====
section
/-! SUPPORT. One lemma per field of State per named update (all by unfolding the update), so that no later proof unfolds a
record update; and the laws of the Transport accessors. -/

namespace Sys2Proof.Machine

/-! ## `State.orEvents` -/

@[simp] theorem State.orEvents_cfg (s : State) (mask : Word) : (s.orEvents mask).cfg = s.cfg := rfl
@[simp] theorem State.orEvents_events (s : State) (mask : Word) : (s.orEvents mask).events = s.events ||| mask := rfl
@[simp] theorem State.orEvents_ie (s : State) (mask : Word) : (s.orEvents mask).ie = s.ie := rfl
@[simp] theorem State.orEvents_tickPend (s : State) (mask : Word) : (s.orEvents mask).tickPend = s.tickPend := rfl
@[simp] theorem State.orEvents_cmp (s : State) (mask : Word) : (s.orEvents mask).cmp = s.cmp := rfl
@[simp] theorem State.orEvents_slots (s : State) (mask : Word) : (s.orEvents mask).slots = s.slots := rfl
@[simp] theorem State.orEvents_nreg (s : State) (mask : Word) : (s.orEvents mask).nreg = s.nreg := rfl
@[simp] theorem State.orEvents_busA (s : State) (mask : Word) : (s.orEvents mask).busA = s.busA := rfl
@[simp] theorem State.orEvents_busB (s : State) (mask : Word) : (s.orEvents mask).busB = s.busB := rfl
@[simp] theorem State.orEvents_met (s : State) (mask : Word) : (s.orEvents mask).met = s.met := rfl
@[simp] theorem State.orEvents_main (s : State) (mask : Word) : (s.orEvents mask).main = s.main := rfl
@[simp] theorem State.orEvents_isr (s : State) (mask : Word) : (s.orEvents mask).isr = s.isr := rfl
@[simp] theorem State.orEvents_fault (s : State) (mask : Word) : (s.orEvents mask).fault = s.fault := rfl
@[simp] theorem State.orEvents_dm (s : State) (mask : Word) : (s.orEvents mask).dm = s.dm := rfl
@[simp] theorem State.orEvents_trace (s : State) (mask : Word) : (s.orEvents mask).trace = s.trace := rfl
@[simp] theorem State.orEvents_program (s : State) (mask : Word) : (s.orEvents mask).program = s.program := rfl
@[simp] theorem State.orEvents_mainPos (s : State) (mask : Word) : (s.orEvents mask).mainPos = s.mainPos := rfl
@[simp] theorem State.orEvents_cbPos (s : State) (mask : Word) : (s.orEvents mask).cbPos = s.cbPos := rfl
@[simp] theorem State.orEvents_moves (s : State) (mask : Word) : (s.orEvents mask).moves = s.moves := rfl

/-! ## `State.clearEvent` -/

@[simp] theorem State.clearEvent_cfg (s : State) (b : Fin 32) : (s.clearEvent b).cfg = s.cfg := rfl
@[simp] theorem State.clearEvent_events (s : State) (b : Fin 32) : (s.clearEvent b).events = s.events &&& ~~~(eventBit b) := rfl
@[simp] theorem State.clearEvent_ie (s : State) (b : Fin 32) : (s.clearEvent b).ie = s.ie := rfl
@[simp] theorem State.clearEvent_tickPend (s : State) (b : Fin 32) : (s.clearEvent b).tickPend = s.tickPend := rfl
@[simp] theorem State.clearEvent_cmp (s : State) (b : Fin 32) : (s.clearEvent b).cmp = s.cmp := rfl
@[simp] theorem State.clearEvent_slots (s : State) (b : Fin 32) : (s.clearEvent b).slots = s.slots := rfl
@[simp] theorem State.clearEvent_nreg (s : State) (b : Fin 32) : (s.clearEvent b).nreg = s.nreg := rfl
@[simp] theorem State.clearEvent_busA (s : State) (b : Fin 32) : (s.clearEvent b).busA = s.busA := rfl
@[simp] theorem State.clearEvent_busB (s : State) (b : Fin 32) : (s.clearEvent b).busB = s.busB := rfl
@[simp] theorem State.clearEvent_met (s : State) (b : Fin 32) : (s.clearEvent b).met = s.met := rfl
@[simp] theorem State.clearEvent_main (s : State) (b : Fin 32) : (s.clearEvent b).main = s.main := rfl
@[simp] theorem State.clearEvent_isr (s : State) (b : Fin 32) : (s.clearEvent b).isr = s.isr := rfl
@[simp] theorem State.clearEvent_fault (s : State) (b : Fin 32) : (s.clearEvent b).fault = s.fault := rfl
@[simp] theorem State.clearEvent_dm (s : State) (b : Fin 32) : (s.clearEvent b).dm = s.dm := rfl
@[simp] theorem State.clearEvent_trace (s : State) (b : Fin 32) : (s.clearEvent b).trace = s.trace := rfl
@[simp] theorem State.clearEvent_program (s : State) (b : Fin 32) : (s.clearEvent b).program = s.program := rfl
@[simp] theorem State.clearEvent_mainPos (s : State) (b : Fin 32) : (s.clearEvent b).mainPos = s.mainPos := rfl
@[simp] theorem State.clearEvent_cbPos (s : State) (b : Fin 32) : (s.clearEvent b).cbPos = s.cbPos := rfl
@[simp] theorem State.clearEvent_moves (s : State) (b : Fin 32) : (s.clearEvent b).moves = s.moves := rfl

/-! ## `State.postInternal` -/

@[simp] theorem State.postInternal_cfg (s : State) (b : Fin 32) : (s.postInternal b).cfg = s.cfg := rfl
@[simp] theorem State.postInternal_events (s : State) (b : Fin 32) : (s.postInternal b).events = s.events ||| eventBit b := rfl
@[simp] theorem State.postInternal_ie (s : State) (b : Fin 32) : (s.postInternal b).ie = s.ie := rfl
@[simp] theorem State.postInternal_tickPend (s : State) (b : Fin 32) : (s.postInternal b).tickPend = s.tickPend := rfl
@[simp] theorem State.postInternal_cmp (s : State) (b : Fin 32) : (s.postInternal b).cmp = s.cmp := rfl
@[simp] theorem State.postInternal_slots (s : State) (b : Fin 32) : (s.postInternal b).slots = s.slots := rfl
@[simp] theorem State.postInternal_nreg (s : State) (b : Fin 32) : (s.postInternal b).nreg = s.nreg := rfl
@[simp] theorem State.postInternal_busA (s : State) (b : Fin 32) : (s.postInternal b).busA = s.busA := rfl
@[simp] theorem State.postInternal_busB (s : State) (b : Fin 32) : (s.postInternal b).busB = s.busB := rfl
@[simp] theorem State.postInternal_met (s : State) (b : Fin 32) : (s.postInternal b).met = s.met := rfl
@[simp] theorem State.postInternal_main (s : State) (b : Fin 32) : (s.postInternal b).main = s.main := rfl
@[simp] theorem State.postInternal_isr (s : State) (b : Fin 32) : (s.postInternal b).isr = s.isr := rfl
@[simp] theorem State.postInternal_fault (s : State) (b : Fin 32) : (s.postInternal b).fault = s.fault := rfl
@[simp] theorem State.postInternal_dm (s : State) (b : Fin 32) : (s.postInternal b).dm = s.dm := rfl
@[simp] theorem State.postInternal_trace (s : State) (b : Fin 32) : (s.postInternal b).trace = s.trace := rfl
@[simp] theorem State.postInternal_program (s : State) (b : Fin 32) : (s.postInternal b).program = s.program := rfl
@[simp] theorem State.postInternal_mainPos (s : State) (b : Fin 32) : (s.postInternal b).mainPos = s.mainPos := rfl
@[simp] theorem State.postInternal_cbPos (s : State) (b : Fin 32) : (s.postInternal b).cbPos = s.cbPos := rfl
@[simp] theorem State.postInternal_moves (s : State) (b : Fin 32) : (s.postInternal b).moves = s.moves := rfl

/-! ## `State.count` -/

@[simp] theorem State.count_cfg (s : State) (m : Metric) : (s.count m).cfg = s.cfg := rfl
@[simp] theorem State.count_events (s : State) (m : Metric) : (s.count m).events = s.events := rfl
@[simp] theorem State.count_ie (s : State) (m : Metric) : (s.count m).ie = s.ie := rfl
@[simp] theorem State.count_tickPend (s : State) (m : Metric) : (s.count m).tickPend = s.tickPend := rfl
@[simp] theorem State.count_cmp (s : State) (m : Metric) : (s.count m).cmp = s.cmp := rfl
@[simp] theorem State.count_slots (s : State) (m : Metric) : (s.count m).slots = s.slots := rfl
@[simp] theorem State.count_nreg (s : State) (m : Metric) : (s.count m).nreg = s.nreg := rfl
@[simp] theorem State.count_busA (s : State) (m : Metric) : (s.count m).busA = s.busA := rfl
@[simp] theorem State.count_busB (s : State) (m : Metric) : (s.count m).busB = s.busB := rfl
@[simp] theorem State.count_met (s : State) (m : Metric) : (s.count m).met = s.met.bump m := rfl
@[simp] theorem State.count_main (s : State) (m : Metric) : (s.count m).main = s.main := rfl
@[simp] theorem State.count_isr (s : State) (m : Metric) : (s.count m).isr = s.isr := rfl
@[simp] theorem State.count_fault (s : State) (m : Metric) : (s.count m).fault = s.fault := rfl
@[simp] theorem State.count_dm (s : State) (m : Metric) : (s.count m).dm = s.dm := rfl
@[simp] theorem State.count_trace (s : State) (m : Metric) : (s.count m).trace = s.trace := rfl
@[simp] theorem State.count_program (s : State) (m : Metric) : (s.count m).program = s.program := rfl
@[simp] theorem State.count_mainPos (s : State) (m : Metric) : (s.count m).mainPos = s.mainPos := rfl
@[simp] theorem State.count_cbPos (s : State) (m : Metric) : (s.count m).cbPos = s.cbPos := rfl
@[simp] theorem State.count_moves (s : State) (m : Metric) : (s.count m).moves = s.moves := rfl

/-! ## `State.emit` -/

@[simp] theorem State.emit_cfg (s : State) (e : TraceEntry) : (s.emit e).cfg = s.cfg := rfl
@[simp] theorem State.emit_events (s : State) (e : TraceEntry) : (s.emit e).events = s.events := rfl
@[simp] theorem State.emit_ie (s : State) (e : TraceEntry) : (s.emit e).ie = s.ie := rfl
@[simp] theorem State.emit_tickPend (s : State) (e : TraceEntry) : (s.emit e).tickPend = s.tickPend := rfl
@[simp] theorem State.emit_cmp (s : State) (e : TraceEntry) : (s.emit e).cmp = s.cmp := rfl
@[simp] theorem State.emit_slots (s : State) (e : TraceEntry) : (s.emit e).slots = s.slots := rfl
@[simp] theorem State.emit_nreg (s : State) (e : TraceEntry) : (s.emit e).nreg = s.nreg := rfl
@[simp] theorem State.emit_busA (s : State) (e : TraceEntry) : (s.emit e).busA = s.busA := rfl
@[simp] theorem State.emit_busB (s : State) (e : TraceEntry) : (s.emit e).busB = s.busB := rfl
@[simp] theorem State.emit_met (s : State) (e : TraceEntry) : (s.emit e).met = s.met := rfl
@[simp] theorem State.emit_main (s : State) (e : TraceEntry) : (s.emit e).main = s.main := rfl
@[simp] theorem State.emit_isr (s : State) (e : TraceEntry) : (s.emit e).isr = s.isr := rfl
@[simp] theorem State.emit_fault (s : State) (e : TraceEntry) : (s.emit e).fault = s.fault := rfl
@[simp] theorem State.emit_dm (s : State) (e : TraceEntry) : (s.emit e).dm = s.dm := rfl
@[simp] theorem State.emit_trace (s : State) (e : TraceEntry) : (s.emit e).trace = s.trace ++ [e] := rfl
@[simp] theorem State.emit_program (s : State) (e : TraceEntry) : (s.emit e).program = s.program := rfl
@[simp] theorem State.emit_mainPos (s : State) (e : TraceEntry) : (s.emit e).mainPos = s.mainPos := rfl
@[simp] theorem State.emit_cbPos (s : State) (e : TraceEntry) : (s.emit e).cbPos = s.cbPos := rfl
@[simp] theorem State.emit_moves (s : State) (e : TraceEntry) : (s.emit e).moves = s.moves := rfl

/-! ## `State.finish` -/

@[simp] theorem State.finish_cfg (s : State) (op : OpName) (st : Status) (v : Half) : (s.finish op st v).cfg = s.cfg := rfl
@[simp] theorem State.finish_events (s : State) (op : OpName) (st : Status) (v : Half) : (s.finish op st v).events = s.events := rfl
@[simp] theorem State.finish_ie (s : State) (op : OpName) (st : Status) (v : Half) : (s.finish op st v).ie = s.ie := rfl
@[simp] theorem State.finish_tickPend (s : State) (op : OpName) (st : Status) (v : Half) : (s.finish op st v).tickPend = s.tickPend := rfl
@[simp] theorem State.finish_cmp (s : State) (op : OpName) (st : Status) (v : Half) : (s.finish op st v).cmp = s.cmp := rfl
@[simp] theorem State.finish_slots (s : State) (op : OpName) (st : Status) (v : Half) : (s.finish op st v).slots = s.slots := rfl
@[simp] theorem State.finish_nreg (s : State) (op : OpName) (st : Status) (v : Half) : (s.finish op st v).nreg = s.nreg := rfl
@[simp] theorem State.finish_busA (s : State) (op : OpName) (st : Status) (v : Half) : (s.finish op st v).busA = s.busA := rfl
@[simp] theorem State.finish_busB (s : State) (op : OpName) (st : Status) (v : Half) : (s.finish op st v).busB = s.busB := rfl
@[simp] theorem State.finish_met (s : State) (op : OpName) (st : Status) (v : Half) : (s.finish op st v).met = s.met := rfl
@[simp] theorem State.finish_main (s : State) (op : OpName) (st : Status) (v : Half) : (s.finish op st v).main = s.main := rfl
@[simp] theorem State.finish_isr (s : State) (op : OpName) (st : Status) (v : Half) : (s.finish op st v).isr = s.isr := rfl
@[simp] theorem State.finish_fault (s : State) (op : OpName) (st : Status) (v : Half) : (s.finish op st v).fault = s.fault := rfl
@[simp] theorem State.finish_dm (s : State) (op : OpName) (st : Status) (v : Half) : (s.finish op st v).dm = s.dm := rfl
@[simp] theorem State.finish_trace (s : State) (op : OpName) (st : Status) (v : Half) : (s.finish op st v).trace = s.trace ++ [.result op st v] := rfl
@[simp] theorem State.finish_program (s : State) (op : OpName) (st : Status) (v : Half) : (s.finish op st v).program = s.program := rfl
@[simp] theorem State.finish_mainPos (s : State) (op : OpName) (st : Status) (v : Half) : (s.finish op st v).mainPos = s.mainPos := rfl
@[simp] theorem State.finish_cbPos (s : State) (op : OpName) (st : Status) (v : Half) : (s.finish op st v).cbPos = s.cbPos := rfl
@[simp] theorem State.finish_moves (s : State) (op : OpName) (st : Status) (v : Half) : (s.finish op st v).moves = s.moves := rfl

/-! ## `State.raiseFault` -/

@[simp] theorem State.raiseFault_cfg (s : State) (f : FaultInfo) : (s.raiseFault f).cfg = s.cfg := rfl
@[simp] theorem State.raiseFault_events (s : State) (f : FaultInfo) : (s.raiseFault f).events = s.events := rfl
@[simp] theorem State.raiseFault_ie (s : State) (f : FaultInfo) : (s.raiseFault f).ie = s.ie := rfl
@[simp] theorem State.raiseFault_tickPend (s : State) (f : FaultInfo) : (s.raiseFault f).tickPend = s.tickPend := rfl
@[simp] theorem State.raiseFault_cmp (s : State) (f : FaultInfo) : (s.raiseFault f).cmp = s.cmp := rfl
@[simp] theorem State.raiseFault_slots (s : State) (f : FaultInfo) : (s.raiseFault f).slots = s.slots := rfl
@[simp] theorem State.raiseFault_nreg (s : State) (f : FaultInfo) : (s.raiseFault f).nreg = s.nreg := rfl
@[simp] theorem State.raiseFault_busA (s : State) (f : FaultInfo) : (s.raiseFault f).busA = s.busA := rfl
@[simp] theorem State.raiseFault_busB (s : State) (f : FaultInfo) : (s.raiseFault f).busB = s.busB := rfl
@[simp] theorem State.raiseFault_met (s : State) (f : FaultInfo) : (s.raiseFault f).met = s.met := rfl
@[simp] theorem State.raiseFault_main (s : State) (f : FaultInfo) : (s.raiseFault f).main = s.main := rfl
@[simp] theorem State.raiseFault_isr (s : State) (f : FaultInfo) : (s.raiseFault f).isr = s.isr := rfl
@[simp] theorem State.raiseFault_fault (s : State) (f : FaultInfo) : (s.raiseFault f).fault = s.fault.add f := rfl
@[simp] theorem State.raiseFault_dm (s : State) (f : FaultInfo) : (s.raiseFault f).dm = s.dm := rfl
@[simp] theorem State.raiseFault_trace (s : State) (f : FaultInfo) : (s.raiseFault f).trace = s.trace ++ [.fault f] := rfl
@[simp] theorem State.raiseFault_program (s : State) (f : FaultInfo) : (s.raiseFault f).program = s.program := rfl
@[simp] theorem State.raiseFault_mainPos (s : State) (f : FaultInfo) : (s.raiseFault f).mainPos = s.mainPos := rfl
@[simp] theorem State.raiseFault_cbPos (s : State) (f : FaultInfo) : (s.raiseFault f).cbPos = s.cbPos := rfl
@[simp] theorem State.raiseFault_moves (s : State) (f : FaultInfo) : (s.raiseFault f).moves = s.moves := rfl

/-! ## `State.setSlot` -/

@[simp] theorem State.setSlot_cfg (s : State) (i : Nat) (w : Slot) : (s.setSlot i w).cfg = s.cfg := rfl
@[simp] theorem State.setSlot_events (s : State) (i : Nat) (w : Slot) : (s.setSlot i w).events = s.events := rfl
@[simp] theorem State.setSlot_ie (s : State) (i : Nat) (w : Slot) : (s.setSlot i w).ie = s.ie := rfl
@[simp] theorem State.setSlot_tickPend (s : State) (i : Nat) (w : Slot) : (s.setSlot i w).tickPend = s.tickPend := rfl
@[simp] theorem State.setSlot_cmp (s : State) (i : Nat) (w : Slot) : (s.setSlot i w).cmp = s.cmp := rfl
@[simp] theorem State.setSlot_slots (s : State) (i : Nat) (w : Slot) : (s.setSlot i w).slots = s.slots.set i w := rfl
@[simp] theorem State.setSlot_nreg (s : State) (i : Nat) (w : Slot) : (s.setSlot i w).nreg = s.nreg := rfl
@[simp] theorem State.setSlot_busA (s : State) (i : Nat) (w : Slot) : (s.setSlot i w).busA = s.busA := rfl
@[simp] theorem State.setSlot_busB (s : State) (i : Nat) (w : Slot) : (s.setSlot i w).busB = s.busB := rfl
@[simp] theorem State.setSlot_met (s : State) (i : Nat) (w : Slot) : (s.setSlot i w).met = s.met := rfl
@[simp] theorem State.setSlot_main (s : State) (i : Nat) (w : Slot) : (s.setSlot i w).main = s.main := rfl
@[simp] theorem State.setSlot_isr (s : State) (i : Nat) (w : Slot) : (s.setSlot i w).isr = s.isr := rfl
@[simp] theorem State.setSlot_fault (s : State) (i : Nat) (w : Slot) : (s.setSlot i w).fault = s.fault := rfl
@[simp] theorem State.setSlot_dm (s : State) (i : Nat) (w : Slot) : (s.setSlot i w).dm = s.dm := rfl
@[simp] theorem State.setSlot_trace (s : State) (i : Nat) (w : Slot) : (s.setSlot i w).trace = s.trace := rfl
@[simp] theorem State.setSlot_program (s : State) (i : Nat) (w : Slot) : (s.setSlot i w).program = s.program := rfl
@[simp] theorem State.setSlot_mainPos (s : State) (i : Nat) (w : Slot) : (s.setSlot i w).mainPos = s.mainPos := rfl
@[simp] theorem State.setSlot_cbPos (s : State) (i : Nat) (w : Slot) : (s.setSlot i w).cbPos = s.cbPos := rfl
@[simp] theorem State.setSlot_moves (s : State) (i : Nat) (w : Slot) : (s.setSlot i w).moves = s.moves := rfl

/-! ## `State.returnInterrupt` -/

@[simp] theorem State.returnInterrupt_cfg (s : State) : (s.returnInterrupt).cfg = s.cfg := rfl
@[simp] theorem State.returnInterrupt_events (s : State) : (s.returnInterrupt).events = s.events := rfl
@[simp] theorem State.returnInterrupt_ie (s : State) : (s.returnInterrupt).ie = true := rfl
@[simp] theorem State.returnInterrupt_tickPend (s : State) : (s.returnInterrupt).tickPend = s.tickPend := rfl
@[simp] theorem State.returnInterrupt_cmp (s : State) : (s.returnInterrupt).cmp = s.cmp := rfl
@[simp] theorem State.returnInterrupt_slots (s : State) : (s.returnInterrupt).slots = s.slots := rfl
@[simp] theorem State.returnInterrupt_nreg (s : State) : (s.returnInterrupt).nreg = s.nreg := rfl
@[simp] theorem State.returnInterrupt_busA (s : State) : (s.returnInterrupt).busA = s.busA := rfl
@[simp] theorem State.returnInterrupt_busB (s : State) : (s.returnInterrupt).busB = s.busB := rfl
@[simp] theorem State.returnInterrupt_met (s : State) : (s.returnInterrupt).met = s.met := rfl
@[simp] theorem State.returnInterrupt_main (s : State) : (s.returnInterrupt).main = s.main := rfl
@[simp] theorem State.returnInterrupt_isr (s : State) : (s.returnInterrupt).isr = .none := rfl
@[simp] theorem State.returnInterrupt_fault (s : State) : (s.returnInterrupt).fault = s.fault := rfl
@[simp] theorem State.returnInterrupt_dm (s : State) : (s.returnInterrupt).dm = s.dm := rfl
@[simp] theorem State.returnInterrupt_trace (s : State) : (s.returnInterrupt).trace = s.trace := rfl
@[simp] theorem State.returnInterrupt_program (s : State) : (s.returnInterrupt).program = s.program := rfl
@[simp] theorem State.returnInterrupt_mainPos (s : State) : (s.returnInterrupt).mainPos = s.mainPos := rfl
@[simp] theorem State.returnInterrupt_cbPos (s : State) : (s.returnInterrupt).cbPos = s.cbPos := rfl
@[simp] theorem State.returnInterrupt_moves (s : State) : (s.returnInterrupt).moves = s.moves := rfl

/-! ## `State.writeFromOutside` -/

@[simp] theorem State.writeFromOutside_cfg (s : State) (a : Addr) (v : Byte) : (s.writeFromOutside a v).cfg = s.cfg := rfl
@[simp] theorem State.writeFromOutside_events (s : State) (a : Addr) (v : Byte) : (s.writeFromOutside a v).events = s.events := rfl
@[simp] theorem State.writeFromOutside_ie (s : State) (a : Addr) (v : Byte) : (s.writeFromOutside a v).ie = s.ie := rfl
@[simp] theorem State.writeFromOutside_tickPend (s : State) (a : Addr) (v : Byte) : (s.writeFromOutside a v).tickPend = s.tickPend := rfl
@[simp] theorem State.writeFromOutside_cmp (s : State) (a : Addr) (v : Byte) : (s.writeFromOutside a v).cmp = s.cmp := rfl
@[simp] theorem State.writeFromOutside_slots (s : State) (a : Addr) (v : Byte) : (s.writeFromOutside a v).slots = s.slots := rfl
@[simp] theorem State.writeFromOutside_nreg (s : State) (a : Addr) (v : Byte) : (s.writeFromOutside a v).nreg = s.nreg := rfl
@[simp] theorem State.writeFromOutside_busA (s : State) (a : Addr) (v : Byte) : (s.writeFromOutside a v).busA = s.busA := rfl
@[simp] theorem State.writeFromOutside_busB (s : State) (a : Addr) (v : Byte) : (s.writeFromOutside a v).busB = s.busB := rfl
@[simp] theorem State.writeFromOutside_met (s : State) (a : Addr) (v : Byte) : (s.writeFromOutside a v).met = s.met := rfl
@[simp] theorem State.writeFromOutside_main (s : State) (a : Addr) (v : Byte) : (s.writeFromOutside a v).main = s.main := rfl
@[simp] theorem State.writeFromOutside_isr (s : State) (a : Addr) (v : Byte) : (s.writeFromOutside a v).isr = s.isr := rfl
@[simp] theorem State.writeFromOutside_fault (s : State) (a : Addr) (v : Byte) : (s.writeFromOutside a v).fault = s.fault := rfl
@[simp] theorem State.writeFromOutside_dm (s : State) (a : Addr) (v : Byte) : (s.writeFromOutside a v).dm = Memory.write s.dm a.toNat v := rfl
@[simp] theorem State.writeFromOutside_trace (s : State) (a : Addr) (v : Byte) : (s.writeFromOutside a v).trace = s.trace := rfl
@[simp] theorem State.writeFromOutside_program (s : State) (a : Addr) (v : Byte) : (s.writeFromOutside a v).program = s.program := rfl
@[simp] theorem State.writeFromOutside_mainPos (s : State) (a : Addr) (v : Byte) : (s.writeFromOutside a v).mainPos = s.mainPos := rfl
@[simp] theorem State.writeFromOutside_cbPos (s : State) (a : Addr) (v : Byte) : (s.writeFromOutside a v).cbPos = s.cbPos := rfl
@[simp] theorem State.writeFromOutside_moves (s : State) (a : Addr) (v : Byte) : (s.writeFromOutside a v).moves = s.moves := rfl

/-! ## `State.setXport` -/

@[simp] theorem State.setXport_cfg (s : State) (t : Bus) (x : Transport) : (s.setXport t x).cfg = s.cfg := by cases t <;> rfl
@[simp] theorem State.setXport_events (s : State) (t : Bus) (x : Transport) : (s.setXport t x).events = s.events := by cases t <;> rfl
@[simp] theorem State.setXport_ie (s : State) (t : Bus) (x : Transport) : (s.setXport t x).ie = s.ie := by cases t <;> rfl
@[simp] theorem State.setXport_tickPend (s : State) (t : Bus) (x : Transport) : (s.setXport t x).tickPend = s.tickPend := by cases t <;> rfl
@[simp] theorem State.setXport_cmp (s : State) (t : Bus) (x : Transport) : (s.setXport t x).cmp = s.cmp := by cases t <;> rfl
@[simp] theorem State.setXport_slots (s : State) (t : Bus) (x : Transport) : (s.setXport t x).slots = s.slots := by cases t <;> rfl
@[simp] theorem State.setXport_nreg (s : State) (t : Bus) (x : Transport) : (s.setXport t x).nreg = s.nreg := by cases t <;> rfl
@[simp] theorem State.setXport_met (s : State) (t : Bus) (x : Transport) : (s.setXport t x).met = s.met := by cases t <;> rfl
@[simp] theorem State.setXport_main (s : State) (t : Bus) (x : Transport) : (s.setXport t x).main = s.main := by cases t <;> rfl
@[simp] theorem State.setXport_isr (s : State) (t : Bus) (x : Transport) : (s.setXport t x).isr = s.isr := by cases t <;> rfl
@[simp] theorem State.setXport_fault (s : State) (t : Bus) (x : Transport) : (s.setXport t x).fault = s.fault := by cases t <;> rfl
@[simp] theorem State.setXport_dm (s : State) (t : Bus) (x : Transport) : (s.setXport t x).dm = s.dm := by cases t <;> rfl
@[simp] theorem State.setXport_trace (s : State) (t : Bus) (x : Transport) : (s.setXport t x).trace = s.trace := by cases t <;> rfl
@[simp] theorem State.setXport_program (s : State) (t : Bus) (x : Transport) : (s.setXport t x).program = s.program := by cases t <;> rfl
@[simp] theorem State.setXport_mainPos (s : State) (t : Bus) (x : Transport) : (s.setXport t x).mainPos = s.mainPos := by cases t <;> rfl
@[simp] theorem State.setXport_cbPos (s : State) (t : Bus) (x : Transport) : (s.setXport t x).cbPos = s.cbPos := by cases t <;> rfl
@[simp] theorem State.setXport_moves (s : State) (t : Bus) (x : Transport) : (s.setXport t x).moves = s.moves := by cases t <;> rfl

/-! ## `State.modXport` -/

@[simp] theorem State.modXport_cfg (s : State) (t : Bus) (f : Transport → Transport) : (s.modXport t f).cfg = s.cfg := by cases t <;> rfl
@[simp] theorem State.modXport_events (s : State) (t : Bus) (f : Transport → Transport) : (s.modXport t f).events = s.events := by cases t <;> rfl
@[simp] theorem State.modXport_ie (s : State) (t : Bus) (f : Transport → Transport) : (s.modXport t f).ie = s.ie := by cases t <;> rfl
@[simp] theorem State.modXport_tickPend (s : State) (t : Bus) (f : Transport → Transport) : (s.modXport t f).tickPend = s.tickPend := by cases t <;> rfl
@[simp] theorem State.modXport_cmp (s : State) (t : Bus) (f : Transport → Transport) : (s.modXport t f).cmp = s.cmp := by cases t <;> rfl
@[simp] theorem State.modXport_slots (s : State) (t : Bus) (f : Transport → Transport) : (s.modXport t f).slots = s.slots := by cases t <;> rfl
@[simp] theorem State.modXport_nreg (s : State) (t : Bus) (f : Transport → Transport) : (s.modXport t f).nreg = s.nreg := by cases t <;> rfl
@[simp] theorem State.modXport_met (s : State) (t : Bus) (f : Transport → Transport) : (s.modXport t f).met = s.met := by cases t <;> rfl
@[simp] theorem State.modXport_main (s : State) (t : Bus) (f : Transport → Transport) : (s.modXport t f).main = s.main := by cases t <;> rfl
@[simp] theorem State.modXport_isr (s : State) (t : Bus) (f : Transport → Transport) : (s.modXport t f).isr = s.isr := by cases t <;> rfl
@[simp] theorem State.modXport_fault (s : State) (t : Bus) (f : Transport → Transport) : (s.modXport t f).fault = s.fault := by cases t <;> rfl
@[simp] theorem State.modXport_dm (s : State) (t : Bus) (f : Transport → Transport) : (s.modXport t f).dm = s.dm := by cases t <;> rfl
@[simp] theorem State.modXport_trace (s : State) (t : Bus) (f : Transport → Transport) : (s.modXport t f).trace = s.trace := by cases t <;> rfl
@[simp] theorem State.modXport_program (s : State) (t : Bus) (f : Transport → Transport) : (s.modXport t f).program = s.program := by cases t <;> rfl
@[simp] theorem State.modXport_mainPos (s : State) (t : Bus) (f : Transport → Transport) : (s.modXport t f).mainPos = s.mainPos := by cases t <;> rfl
@[simp] theorem State.modXport_cbPos (s : State) (t : Bus) (f : Transport → Transport) : (s.modXport t f).cbPos = s.cbPos := by cases t <;> rfl
@[simp] theorem State.modXport_moves (s : State) (t : Bus) (f : Transport → Transport) : (s.modXport t f).moves = s.moves := by cases t <;> rfl

/-! ## `State.load` -/

@[simp] theorem State.load_cfg (s : State) (t : Bus) (x : Byte) : (s.load t x).cfg = s.cfg := by cases t <;> rfl
@[simp] theorem State.load_events (s : State) (t : Bus) (x : Byte) : (s.load t x).events = s.events := by cases t <;> rfl
@[simp] theorem State.load_ie (s : State) (t : Bus) (x : Byte) : (s.load t x).ie = s.ie := by cases t <;> rfl
@[simp] theorem State.load_tickPend (s : State) (t : Bus) (x : Byte) : (s.load t x).tickPend = s.tickPend := by cases t <;> rfl
@[simp] theorem State.load_cmp (s : State) (t : Bus) (x : Byte) : (s.load t x).cmp = s.cmp := by cases t <;> rfl
@[simp] theorem State.load_slots (s : State) (t : Bus) (x : Byte) : (s.load t x).slots = s.slots := by cases t <;> rfl
@[simp] theorem State.load_nreg (s : State) (t : Bus) (x : Byte) : (s.load t x).nreg = s.nreg := by cases t <;> rfl
@[simp] theorem State.load_met (s : State) (t : Bus) (x : Byte) : (s.load t x).met = s.met := by cases t <;> rfl
@[simp] theorem State.load_main (s : State) (t : Bus) (x : Byte) : (s.load t x).main = s.main := by cases t <;> rfl
@[simp] theorem State.load_isr (s : State) (t : Bus) (x : Byte) : (s.load t x).isr = s.isr := by cases t <;> rfl
@[simp] theorem State.load_fault (s : State) (t : Bus) (x : Byte) : (s.load t x).fault = s.fault := by cases t <;> rfl
@[simp] theorem State.load_dm (s : State) (t : Bus) (x : Byte) : (s.load t x).dm = s.dm := by cases t <;> rfl
@[simp] theorem State.load_trace (s : State) (t : Bus) (x : Byte) : (s.load t x).trace = s.trace ++ [.wire t x] := by cases t <;> rfl
@[simp] theorem State.load_program (s : State) (t : Bus) (x : Byte) : (s.load t x).program = s.program := by cases t <;> rfl
@[simp] theorem State.load_mainPos (s : State) (t : Bus) (x : Byte) : (s.load t x).mainPos = s.mainPos := by cases t <;> rfl
@[simp] theorem State.load_cbPos (s : State) (t : Bus) (x : Byte) : (s.load t x).cbPos = s.cbPos := by cases t <;> rfl
@[simp] theorem State.load_moves (s : State) (t : Bus) (x : Byte) : (s.load t x).moves = s.moves := by cases t <;> rfl

/-! ## `State.setPhase` -/

@[simp] theorem State.setPhase_cfg (s : State) (t : Bus) (p : Phase) (tx rx : Nat) : (s.setPhase t p tx rx).cfg = s.cfg := by cases t <;> rfl
@[simp] theorem State.setPhase_events (s : State) (t : Bus) (p : Phase) (tx rx : Nat) : (s.setPhase t p tx rx).events = s.events := by cases t <;> rfl
@[simp] theorem State.setPhase_ie (s : State) (t : Bus) (p : Phase) (tx rx : Nat) : (s.setPhase t p tx rx).ie = s.ie := by cases t <;> rfl
@[simp] theorem State.setPhase_tickPend (s : State) (t : Bus) (p : Phase) (tx rx : Nat) : (s.setPhase t p tx rx).tickPend = s.tickPend := by cases t <;> rfl
@[simp] theorem State.setPhase_cmp (s : State) (t : Bus) (p : Phase) (tx rx : Nat) : (s.setPhase t p tx rx).cmp = s.cmp := by cases t <;> rfl
@[simp] theorem State.setPhase_slots (s : State) (t : Bus) (p : Phase) (tx rx : Nat) : (s.setPhase t p tx rx).slots = s.slots := by cases t <;> rfl
@[simp] theorem State.setPhase_nreg (s : State) (t : Bus) (p : Phase) (tx rx : Nat) : (s.setPhase t p tx rx).nreg = s.nreg := by cases t <;> rfl
@[simp] theorem State.setPhase_met (s : State) (t : Bus) (p : Phase) (tx rx : Nat) : (s.setPhase t p tx rx).met = s.met := by cases t <;> rfl
@[simp] theorem State.setPhase_main (s : State) (t : Bus) (p : Phase) (tx rx : Nat) : (s.setPhase t p tx rx).main = s.main := by cases t <;> rfl
@[simp] theorem State.setPhase_isr (s : State) (t : Bus) (p : Phase) (tx rx : Nat) : (s.setPhase t p tx rx).isr = s.isr := by cases t <;> rfl
@[simp] theorem State.setPhase_fault (s : State) (t : Bus) (p : Phase) (tx rx : Nat) : (s.setPhase t p tx rx).fault = s.fault := by cases t <;> rfl
@[simp] theorem State.setPhase_dm (s : State) (t : Bus) (p : Phase) (tx rx : Nat) : (s.setPhase t p tx rx).dm = s.dm := by cases t <;> rfl
@[simp] theorem State.setPhase_trace (s : State) (t : Bus) (p : Phase) (tx rx : Nat) : (s.setPhase t p tx rx).trace = s.trace := by cases t <;> rfl
@[simp] theorem State.setPhase_program (s : State) (t : Bus) (p : Phase) (tx rx : Nat) : (s.setPhase t p tx rx).program = s.program := by cases t <;> rfl
@[simp] theorem State.setPhase_mainPos (s : State) (t : Bus) (p : Phase) (tx rx : Nat) : (s.setPhase t p tx rx).mainPos = s.mainPos := by cases t <;> rfl
@[simp] theorem State.setPhase_cbPos (s : State) (t : Bus) (p : Phase) (tx rx : Nat) : (s.setPhase t p tx rx).cbPos = s.cbPos := by cases t <;> rfl
@[simp] theorem State.setPhase_moves (s : State) (t : Bus) (p : Phase) (tx rx : Nat) : (s.setPhase t p tx rx).moves = s.moves := by cases t <;> rfl

/-! ## `State.appendRow` -/

@[simp] theorem State.appendRow_cfg (s : State) (t : Bus) (bs : List Byte) (ds : List Addr) : (s.appendRow t bs ds).cfg = s.cfg := by cases t <;> rfl
@[simp] theorem State.appendRow_events (s : State) (t : Bus) (bs : List Byte) (ds : List Addr) : (s.appendRow t bs ds).events = s.events := by cases t <;> rfl
@[simp] theorem State.appendRow_ie (s : State) (t : Bus) (bs : List Byte) (ds : List Addr) : (s.appendRow t bs ds).ie = s.ie := by cases t <;> rfl
@[simp] theorem State.appendRow_tickPend (s : State) (t : Bus) (bs : List Byte) (ds : List Addr) : (s.appendRow t bs ds).tickPend = s.tickPend := by cases t <;> rfl
@[simp] theorem State.appendRow_cmp (s : State) (t : Bus) (bs : List Byte) (ds : List Addr) : (s.appendRow t bs ds).cmp = s.cmp := by cases t <;> rfl
@[simp] theorem State.appendRow_slots (s : State) (t : Bus) (bs : List Byte) (ds : List Addr) : (s.appendRow t bs ds).slots = s.slots := by cases t <;> rfl
@[simp] theorem State.appendRow_nreg (s : State) (t : Bus) (bs : List Byte) (ds : List Addr) : (s.appendRow t bs ds).nreg = s.nreg := by cases t <;> rfl
@[simp] theorem State.appendRow_met (s : State) (t : Bus) (bs : List Byte) (ds : List Addr) : (s.appendRow t bs ds).met = s.met := by cases t <;> rfl
@[simp] theorem State.appendRow_main (s : State) (t : Bus) (bs : List Byte) (ds : List Addr) : (s.appendRow t bs ds).main = s.main := by cases t <;> rfl
@[simp] theorem State.appendRow_isr (s : State) (t : Bus) (bs : List Byte) (ds : List Addr) : (s.appendRow t bs ds).isr = s.isr := by cases t <;> rfl
@[simp] theorem State.appendRow_fault (s : State) (t : Bus) (bs : List Byte) (ds : List Addr) : (s.appendRow t bs ds).fault = s.fault := by cases t <;> rfl
@[simp] theorem State.appendRow_dm (s : State) (t : Bus) (bs : List Byte) (ds : List Addr) : (s.appendRow t bs ds).dm = s.dm := by cases t <;> rfl
@[simp] theorem State.appendRow_trace (s : State) (t : Bus) (bs : List Byte) (ds : List Addr) : (s.appendRow t bs ds).trace = s.trace := by cases t <;> rfl
@[simp] theorem State.appendRow_program (s : State) (t : Bus) (bs : List Byte) (ds : List Addr) : (s.appendRow t bs ds).program = s.program := by cases t <;> rfl
@[simp] theorem State.appendRow_mainPos (s : State) (t : Bus) (bs : List Byte) (ds : List Addr) : (s.appendRow t bs ds).mainPos = s.mainPos := by cases t <;> rfl
@[simp] theorem State.appendRow_cbPos (s : State) (t : Bus) (bs : List Byte) (ds : List Addr) : (s.appendRow t bs ds).cbPos = s.cbPos := by cases t <;> rfl
@[simp] theorem State.appendRow_moves (s : State) (t : Bus) (bs : List Byte) (ds : List Addr) : (s.appendRow t bs ds).moves = s.moves := by cases t <;> rfl

/-! ## `State.completeRow` -/

@[simp] theorem State.completeRow_cfg (s : State) (t : Bus) : (s.completeRow t).cfg = s.cfg := by cases t <;> rfl
@[simp] theorem State.completeRow_events (s : State) (t : Bus) : (s.completeRow t).events = s.events ||| eventBit (s.cfg.bus t).evDone := by cases t <;> rfl
@[simp] theorem State.completeRow_ie (s : State) (t : Bus) : (s.completeRow t).ie = s.ie := by cases t <;> rfl
@[simp] theorem State.completeRow_tickPend (s : State) (t : Bus) : (s.completeRow t).tickPend = s.tickPend := by cases t <;> rfl
@[simp] theorem State.completeRow_cmp (s : State) (t : Bus) : (s.completeRow t).cmp = s.cmp := by cases t <;> rfl
@[simp] theorem State.completeRow_slots (s : State) (t : Bus) : (s.completeRow t).slots = s.slots := by cases t <;> rfl
@[simp] theorem State.completeRow_nreg (s : State) (t : Bus) : (s.completeRow t).nreg = s.nreg := by cases t <;> rfl
@[simp] theorem State.completeRow_met (s : State) (t : Bus) : (s.completeRow t).met = s.met := by cases t <;> rfl
@[simp] theorem State.completeRow_main (s : State) (t : Bus) : (s.completeRow t).main = s.main := by cases t <;> rfl
@[simp] theorem State.completeRow_isr (s : State) (t : Bus) : (s.completeRow t).isr = s.isr := by cases t <;> rfl
@[simp] theorem State.completeRow_fault (s : State) (t : Bus) : (s.completeRow t).fault = s.fault := by cases t <;> rfl
@[simp] theorem State.completeRow_dm (s : State) (t : Bus) : (s.completeRow t).dm = s.dm := by cases t <;> rfl
@[simp] theorem State.completeRow_trace (s : State) (t : Bus) : (s.completeRow t).trace = s.trace := by cases t <;> rfl
@[simp] theorem State.completeRow_program (s : State) (t : Bus) : (s.completeRow t).program = s.program := by cases t <;> rfl
@[simp] theorem State.completeRow_mainPos (s : State) (t : Bus) : (s.completeRow t).mainPos = s.mainPos := by cases t <;> rfl
@[simp] theorem State.completeRow_cbPos (s : State) (t : Bus) : (s.completeRow t).cbPos = s.cbPos := by cases t <;> rfl
@[simp] theorem State.completeRow_moves (s : State) (t : Bus) : (s.completeRow t).moves = s.moves := by cases t <;> rfl

/-! ## `State.enterInterrupt` -/

@[simp] theorem State.enterInterrupt_cfg (s : State) (src : IrqSource) : (s.enterInterrupt src).cfg = s.cfg := by cases src with | tick => rfl | bc t => cases t <;> rfl
@[simp] theorem State.enterInterrupt_events (s : State) (src : IrqSource) : (s.enterInterrupt src).events = s.events := by cases src with | tick => rfl | bc t => cases t <;> rfl
@[simp] theorem State.enterInterrupt_ie (s : State) (src : IrqSource) : (s.enterInterrupt src).ie = false := by cases src with | tick => rfl | bc t => cases t <;> rfl
@[simp] theorem State.enterInterrupt_cmp (s : State) (src : IrqSource) : (s.enterInterrupt src).cmp = s.cmp := by cases src with | tick => rfl | bc t => cases t <;> rfl
@[simp] theorem State.enterInterrupt_slots (s : State) (src : IrqSource) : (s.enterInterrupt src).slots = s.slots := by cases src with | tick => rfl | bc t => cases t <;> rfl
@[simp] theorem State.enterInterrupt_nreg (s : State) (src : IrqSource) : (s.enterInterrupt src).nreg = s.nreg := by cases src with | tick => rfl | bc t => cases t <;> rfl
@[simp] theorem State.enterInterrupt_met (s : State) (src : IrqSource) : (s.enterInterrupt src).met = s.met := by cases src with | tick => rfl | bc t => cases t <;> rfl
@[simp] theorem State.enterInterrupt_main (s : State) (src : IrqSource) : (s.enterInterrupt src).main = s.main := by cases src with | tick => rfl | bc t => cases t <;> rfl
@[simp] theorem State.enterInterrupt_fault (s : State) (src : IrqSource) : (s.enterInterrupt src).fault = s.fault := by cases src with | tick => rfl | bc t => cases t <;> rfl
@[simp] theorem State.enterInterrupt_dm (s : State) (src : IrqSource) : (s.enterInterrupt src).dm = s.dm := by cases src with | tick => rfl | bc t => cases t <;> rfl
@[simp] theorem State.enterInterrupt_trace (s : State) (src : IrqSource) : (s.enterInterrupt src).trace = s.trace := by cases src with | tick => rfl | bc t => cases t <;> rfl
@[simp] theorem State.enterInterrupt_program (s : State) (src : IrqSource) : (s.enterInterrupt src).program = s.program := by cases src with | tick => rfl | bc t => cases t <;> rfl
@[simp] theorem State.enterInterrupt_mainPos (s : State) (src : IrqSource) : (s.enterInterrupt src).mainPos = s.mainPos := by cases src with | tick => rfl | bc t => cases t <;> rfl
@[simp] theorem State.enterInterrupt_cbPos (s : State) (src : IrqSource) : (s.enterInterrupt src).cbPos = s.cbPos := by cases src with | tick => rfl | bc t => cases t <;> rfl
@[simp] theorem State.enterInterrupt_moves (s : State) (src : IrqSource) : (s.enterInterrupt src).moves = s.moves := by cases src with | tick => rfl | bc t => cases t <;> rfl

/-! ## `State.advance` -/

@[simp] theorem State.advance_cfg (s : State) : s.advance.cfg = s.cfg := by unfold State.advance; split <;> rfl
@[simp] theorem State.advance_events (s : State) : s.advance.events = s.events := by unfold State.advance; split <;> rfl
@[simp] theorem State.advance_ie (s : State) : s.advance.ie = s.ie := by unfold State.advance; split <;> rfl
@[simp] theorem State.advance_tickPend (s : State) : s.advance.tickPend = s.tickPend := by unfold State.advance; split <;> rfl
@[simp] theorem State.advance_cmp (s : State) : s.advance.cmp = s.cmp := by unfold State.advance; split <;> rfl
@[simp] theorem State.advance_slots (s : State) : s.advance.slots = s.slots := by unfold State.advance; split <;> rfl
@[simp] theorem State.advance_nreg (s : State) : s.advance.nreg = s.nreg := by unfold State.advance; split <;> rfl
@[simp] theorem State.advance_busA (s : State) : s.advance.busA = s.busA := by unfold State.advance; split <;> rfl
@[simp] theorem State.advance_busB (s : State) : s.advance.busB = s.busB := by unfold State.advance; split <;> rfl
@[simp] theorem State.advance_met (s : State) : s.advance.met = s.met := by unfold State.advance; split <;> rfl
@[simp] theorem State.advance_main (s : State) : s.advance.main = s.main := by unfold State.advance; split <;> rfl
@[simp] theorem State.advance_isr (s : State) : s.advance.isr = s.isr := by unfold State.advance; split <;> rfl
@[simp] theorem State.advance_fault (s : State) : s.advance.fault = s.fault := by unfold State.advance; split <;> rfl
@[simp] theorem State.advance_dm (s : State) : s.advance.dm = s.dm := by unfold State.advance; split <;> rfl
@[simp] theorem State.advance_trace (s : State) : s.advance.trace = s.trace := by unfold State.advance; split <;> rfl
@[simp] theorem State.advance_program (s : State) : s.advance.program = s.program := by unfold State.advance; split <;> rfl
@[simp] theorem State.advance_moves (s : State) : s.advance.moves = s.moves := by unfold State.advance; split <;> rfl

/-! ## The Transport accessors -/

theorem State.xport_a (s : State) : s.xport .a = s.busA := rfl

theorem State.xport_b (s : State) : s.xport .b = s.busB := rfl

@[simp] theorem State.xport_setXport_same (s : State) (t : Bus) (x : Transport) : (s.setXport t x).xport t = x := by
  cases t <;> rfl

theorem State.xport_setXport_other (s : State) {t u : Bus} (x : Transport) (h : u ≠ t) :
    (s.setXport t x).xport u = s.xport u := by
  cases t <;> cases u <;> first | rfl | exact absurd rfl h

@[simp] theorem State.xport_modXport_same (s : State) (t : Bus) (f : Transport → Transport) :
    (s.modXport t f).xport t = f (s.xport t) := by
  cases t <;> rfl

theorem State.xport_modXport_other (s : State) {t u : Bus} (f : Transport → Transport) (h : u ≠ t) :
    (s.modXport t f).xport u = s.xport u := by
  cases t <;> cases u <;> first | rfl | exact absurd rfl h

/-- The instance depends on the two Transport fields only. -/
theorem State.xport_congr {s s' : State} (ha : s'.busA = s.busA) (hb : s'.busB = s.busB) (t : Bus) :
    s'.xport t = s.xport t := by
  cases t <;> assumption

@[simp] theorem State.xport_emit (s : State) (e : TraceEntry) (t : Bus) : (s.emit e).xport t = s.xport t := by
  cases t <;> rfl

@[simp] theorem State.xport_finish (s : State) (op : OpName) (st : Status) (v : Half) (t : Bus) :
    (s.finish op st v).xport t = s.xport t := by
  cases t <;> rfl

@[simp] theorem State.xport_postInternal (s : State) (b : Fin 32) (t : Bus) :
    (s.postInternal b).xport t = s.xport t := by
  cases t <;> rfl

@[simp] theorem State.xport_returnInterrupt (s : State) (t : Bus) : s.returnInterrupt.xport t = s.xport t := by
  cases t <;> rfl

@[simp] theorem State.xport_load_same (s : State) (t : Bus) (x : Byte) :
    (s.load t x).xport t = { s.xport t with infl := some x } := by
  cases t <;> rfl

theorem State.xport_load_other (s : State) {t u : Bus} (x : Byte) (h : u ≠ t) : (s.load t x).xport u = s.xport u := by
  cases t <;> cases u <;> first | rfl | exact absurd rfl h

@[simp] theorem State.xport_setPhase_same (s : State) (t : Bus) (p : Phase) (tx rx : Nat) :
    (s.setPhase t p tx rx).xport t = { s.xport t with phase := p, txIdx := tx, rxIdx := rx } := by
  cases t <;> rfl

theorem State.xport_setPhase_other (s : State) {t u : Bus} (p : Phase) (tx rx : Nat) (h : u ≠ t) :
    (s.setPhase t p tx rx).xport u = s.xport u := by
  cases t <;> cases u <;> first | rfl | exact absurd rfl h

@[simp] theorem State.xport_completeRow_same (s : State) (t : Bus) :
    (s.completeRow t).xport t =
      { (s.xport t).setRow (s.xport t).rd { (s.xport t).row (s.xport t).rd with txLen := emptyLen } with
        rd := ringInc (s.cfg.bus t).rows (s.xport t).rd } := by
  cases t <;> rfl

theorem State.xport_completeRow_other (s : State) {t u : Bus} (h : u ≠ t) :
    (s.completeRow t).xport u = s.xport u := by
  cases t <;> cases u <;> first | rfl | exact absurd rfl h

@[simp] theorem State.xport_appendRow_same (s : State) (t : Bus) (bs : List Byte) (ds : List Addr) :
    (s.appendRow t bs ds).xport t =
      { (s.xport t).setRow (s.xport t).wr (((s.xport t).row (s.xport t).wr).fill bs ds) with
        wr := ringInc (s.cfg.bus t).rows (s.xport t).wr } := by
  cases t <;> rfl

theorem State.xport_appendRow_other (s : State) {t u : Bus} (bs : List Byte) (ds : List Addr) (h : u ≠ t) :
    (s.appendRow t bs ds).xport u = s.xport u := by
  cases t <;> cases u <;> first | rfl | exact absurd rfl h

/-! ## The timer slots -/

theorem State.slot_setSlot_same {s : State} {i : Nat} (w : Slot) (h : i < s.slots.length) :
    (s.setSlot i w).slot i = w := by
  simp [State.slot, State.setSlot, h]

theorem State.slot_setSlot_other (s : State) {i k : Nat} (w : Slot) (h : k ≠ i) :
    (s.setSlot i w).slot k = s.slot k := by
  simp [State.slot, State.setSlot, List.getD_eq_getElem?_getD, List.getElem?_set_ne (Ne.symm h)]

@[simp] theorem State.slot_finish (s : State) (op : OpName) (st : Status) (v : Half) (k : Nat) :
    (s.finish op st v).slot k = s.slot k := rfl

/-- The slot that `find` names lies inside the pool (40_timer R141). -/
theorem State.find_lt {s : State} {id : Byte} {i : Nat} (h : s.find id = some i) : i < s.slots.length := by
  obtain ⟨hi, -⟩ := List.findIdx?_eq_some_iff_getElem.mp h
  simp only [List.length_take] at hi
  omega

end Sys2Proof.Machine
end

