-- ==== Sys2Proof/Laws/Memory.lean ====
section
/-! SUPPORT. Data memory: read after write, the canonical form, and what `memWrite` can do. -/

namespace Sys2Proof.Machine

theorem Memory.read_write_same (m : Memory) (a : Nat) (v : Byte) : Memory.read (Memory.write m a v) a = some v := by
  induction m with
  | nil => simp [Memory.write, Memory.read]
  | cons c m ih =>
    obtain ⟨k, w⟩ := c
    unfold Memory.write
    split
    · simp [Memory.read]
    · split
      · simp [Memory.read]
      · rename_i h
        simp [Memory.read, Ne.symm h, ih]

theorem Memory.read_write_other (m : Memory) {a b : Nat} (v : Byte) (h : b ≠ a) :
    Memory.read (Memory.write m a v) b = Memory.read m b := by
  induction m with
  | nil => simp [Memory.write, Memory.read, Ne.symm h]
  | cons c m ih =>
    obtain ⟨k, w⟩ := c
    unfold Memory.write
    split
    · simp [Memory.read, Ne.symm h]
    · split
      · rename_i hk
        subst hk
        simp [Memory.read, Ne.symm h]
      · simp only [Memory.read, ih]

/-- Both read laws at once. -/
theorem Memory.read_write (m : Memory) (a b : Nat) (v : Byte) :
    Memory.read (Memory.write m a v) b = if b = a then some v else Memory.read m b := by
  split
  · next h => rw [h, Memory.read_write_same]
  · next h => exact Memory.read_write_other m v h

theorem Memory.wfFrom_mono {lo lo' : Nat} (h : lo' ≤ lo) {m : Memory} (hw : Memory.wfFrom lo m = true) :
    Memory.wfFrom lo' m = true := by
  cases m with
  | nil => rfl
  | cons c m =>
    obtain ⟨k, w⟩ := c
    simp only [Memory.wfFrom, Bool.and_eq_true, decide_eq_true_eq] at hw ⊢
    exact ⟨⟨by omega, hw.1.2⟩, hw.2⟩

theorem Memory.write_wfFrom (m : Memory) {lo a : Nat} (v : Byte) (ha : lo ≤ a) (hb : a < 65536)
    (hw : Memory.wfFrom lo m = true) : Memory.wfFrom lo (Memory.write m a v) = true := by
  induction m generalizing lo with
  | nil => simp [Memory.write, Memory.wfFrom, ha, hb]
  | cons c m ih =>
    obtain ⟨k, w⟩ := c
    simp only [Memory.wfFrom, Bool.and_eq_true, decide_eq_true_eq] at hw
    unfold Memory.write
    split
    · next h =>
      simp only [Memory.wfFrom, Bool.and_eq_true, decide_eq_true_eq]
      exact ⟨⟨ha, hb⟩, ⟨by omega, hw.1.2⟩, hw.2⟩
    · split
      · next h =>
        subst h
        simp only [Memory.wfFrom, Bool.and_eq_true, decide_eq_true_eq]
        exact ⟨⟨ha, hb⟩, hw.2⟩
      · simp only [Memory.wfFrom, Bool.and_eq_true, decide_eq_true_eq]
        exact ⟨hw.1, ih (by omega) hw.2⟩

/-- Every write of the model keeps the canonical form: the address is 16 bits wide. -/
theorem Memory.write_wf (m : Memory) (a : Addr) (v : Byte) (hw : Memory.wf m = true) :
    Memory.wf (Memory.write m a.toNat v) = true :=
  Memory.write_wfFrom m v (Nat.zero_le _) a.isLt hw

theorem Memory.foldl_write_wf (cells : List (Addr × Byte)) (m : Memory) (hw : Memory.wf m = true) :
    Memory.wf (cells.foldl (fun m c => Memory.write m c.1.toNat c.2) m) = true := by
  induction cells generalizing m with
  | nil => exact hw
  | cons c cells ih => exact ih _ (Memory.write_wf m c.1 c.2 hw)

/-- What a launch supplies is in canonical form. -/
theorem Memory.ofLaunch_wf (cells : List (Addr × Byte)) : Memory.wf (Memory.ofLaunch cells) = true :=
  Memory.foldl_write_wf cells [] rfl

theorem State.reset_memory_wf : Memory.wf State.reset.dm = true := rfl

/-- Everything `memWrite` can do: the byte and its trace entry, or the raise of `BAD_DEST` with nothing written. -/
theorem State.memWrite_cases (s : State) (a : Addr) (v : Byte) :
    (s.cfg.destOk a = true ∧
      s.memWrite a v = .ok { s with dm := Memory.write s.dm a.toNat v, trace := s.trace ++ [.mem a v] }) ∨
    (s.cfg.destOk a = false ∧
      s.memWrite a v = .error { s with fault := s.fault.add (.badDest a), trace := s.trace ++ [.fault (.badDest a)] }) := by
  cases h : s.cfg.destOk a
  · exact .inr ⟨rfl, by simp [State.memWrite, h, State.raiseFault, State.emit]⟩
  · exact .inl ⟨rfl, by simp [State.memWrite, h, State.emit]⟩

end Sys2Proof.Machine
end

