-- ==== Sys2Proof/Laws/PerInstr.lean ====
section
/-! SUPPORT. One statement for each instruction: the words of its encoding lie in its row of spec/opcode_table.json, and
they are as many as L(w) says (30_encoding R103, R105). -/

namespace Sys2Proof.Laws.EncodeRow

/-- The `mask` of an instruction's row. -/
def rowMask : Instr → Word
  | .register _ _ => 0xFF00FF00#32
  | .start _ _ => 0xFF000000#32
  | .stop _ => 0xFF00FFFF#32
  | .elapsed _ => 0xFF00FFFF#32
  | .post _ => 0xFFFFFFFF#32
  | .enq _ _ _ => 0xFFFE0000#32
  | .ret => 0xFFFFFFFF#32
  | .csenter => 0xFFFFFFFF#32
  | .csexit _ => 0xFFFFFFFE#32
  | .rdmetric _ => 0xFFFFFFFC#32
  | .tick => 0xFFFFFFFF#32
  | .bytedone _ _ => 0xFFFEFF00#32

/-- The `match` of an instruction's row. -/
def rowMatch : Instr → Word
  | .register _ _ => 0x01000000#32
  | .start _ _ => 0x02000000#32
  | .stop _ => 0x03000000#32
  | .elapsed _ => 0x04000000#32
  | .post _ => 0x10000000#32
  | .enq _ _ _ => 0x20000000#32
  | .ret => 0x30000000#32
  | .csenter => 0x31000000#32
  | .csexit _ => 0x32000000#32
  | .rdmetric _ => 0x40000000#32
  | .tick => 0xE0000000#32
  | .bytedone _ _ => 0xE1000000#32

/-- The operation word matches the row, and the operand words are as many as it asks for. -/
def Statement (i : Instr) : Prop :=
  i.wf = true →
    (encode i).word &&& rowMask i = rowMatch i ∧ (encode i).operands.length = operandCount (encode i).word

/-- Masking by bytes that are all ones or all zero. -/
theorem and_bytes (a b c d a' b' c' d' : Byte) {m : Word} (h : m = wordOfBytes a' b' c' d') :
    wordOfBytes a b c d &&& m = wordOfBytes (a &&& a') (b &&& b') (c &&& c') (d &&& d') := by
  rw [h, wordOfBytes_and]

theorem register (id cb : Byte) : Statement (.register id cb) := by
  intro _
  refine ⟨?_, by simp [encode, operandCount]⟩
  show wordOfBytes 0x01#8 id 0x00#8 cb &&& 0xFF00FF00#32 = 0x01000000#32
  rw [and_bytes _ _ _ _ 0xFF#8 0x00#8 0xFF#8 0x00#8 (by decide), BitVec.and_zero, BitVec.and_zero]
  decide

theorem start (id : Byte) (dur : Half) : Statement (.start id dur) := by
  intro _
  have hw : (encode (.start id dur)).word = wordOfBytes 0x02#8 id (dur.extractLsb' 8 8) (dur.extractLsb' 0 8) :=
    start_word_eq id dur
  rw [hw]
  refine ⟨?_, by simp [encode, operandCount]⟩
  show _ &&& 0xFF000000#32 = 0x02000000#32
  rw [and_bytes _ _ _ _ 0xFF#8 0x00#8 0x00#8 0x00#8 (by decide), BitVec.and_zero, BitVec.and_zero, BitVec.and_zero]
  decide

theorem stop (id : Byte) : Statement (.stop id) := by
  intro _
  refine ⟨?_, by simp [encode, operandCount]⟩
  show wordOfBytes 0x03#8 id 0x00#8 0x00#8 &&& 0xFF00FFFF#32 = 0x03000000#32
  rw [and_bytes _ _ _ _ 0xFF#8 0x00#8 0xFF#8 0xFF#8 (by decide), BitVec.and_zero]
  decide

theorem elapsed (id : Byte) : Statement (.elapsed id) := by
  intro _
  refine ⟨?_, by simp [encode, operandCount]⟩
  show wordOfBytes 0x04#8 id 0x00#8 0x00#8 &&& 0xFF00FFFF#32 = 0x04000000#32
  rw [and_bytes _ _ _ _ 0xFF#8 0x00#8 0xFF#8 0xFF#8 (by decide), BitVec.and_zero]
  decide

theorem post (mask : Word) : Statement (.post mask) :=
  fun _ => ⟨show 0x10000000#32 &&& 0xFFFFFFFF#32 = 0x10000000#32 by decide,
    show 1 = operandCount 0x10000000#32 by decide⟩

theorem enq (t : Bus) (payload : List Byte) (dests : List Addr) : Statement (.enq t payload dests) := by
  intro hw
  simp only [Instr.wf, Bool.and_eq_true, decide_eq_true_eq] at hw
  have h1 : payload.length % 256 = payload.length := by omega
  have h2 : dests.length % 256 = dests.length := by omega
  refine ⟨?_, by simp [encode, operandCount, h1, h2, packPayload_length, packDests]⟩
  show wordOfBytes 0x20#8 (busByte t) _ _ &&& 0xFFFE0000#32 = 0x20000000#32
  rw [and_bytes _ _ _ _ 0xFF#8 0xFE#8 0x00#8 0x00#8 (by decide), BitVec.and_zero, BitVec.and_zero]
  cases t <;> decide

theorem ret : Statement .ret := fun _ => ⟨by decide, rfl⟩

theorem csenter : Statement .csenter := fun _ => ⟨by decide, rfl⟩

theorem csexit (s : Bool) : Statement (.csexit s) := by
  intro _
  cases s <;> decide

theorem rdmetric (sel : BitVec 2) : Statement (.rdmetric sel) := by
  intro _
  revert sel
  decide

theorem tick : Statement .tick := fun _ => ⟨by decide, rfl⟩

theorem bytedone (t : Bus) (v : Byte) : Statement (.bytedone t v) := by
  intro _
  refine ⟨?_, by simp [encode, operandCount]⟩
  show wordOfBytes 0xE1#8 (busByte t) 0x00#8 v &&& 0xFFFEFF00#32 = 0xE1000000#32
  rw [and_bytes _ _ _ _ 0xFF#8 0xFE#8 0xFF#8 0x00#8 (by decide), BitVec.and_zero]
  cases t <;> decide

end Sys2Proof.Laws.EncodeRow
end

