-- ==== Sys2Proof/Laws/Transport.lean ====
section
/-! SUPPORT. The Transport: the ring's count, the equation of `StartRow` (its bound is never reached), and what the shared
actions can change. -/

namespace Sys2Proof.Machine

/-! ## Rows -/

theorem Row.blank_not_occupied (k : Nat) : (Row.blank k).occupied = false := rfl

theorem Row.occupied_iff (w : Row) : w.occupied = true ↔ w.txLen ≠ emptyLen := by simp [Row.occupied]

/-- An occupied row lies inside the ring. -/
theorem Transport.lt_of_occupied {x : Transport} {r : Nat} (h : x.occupied r = true) : r < x.rows.length := by
  by_contra hr
  rw [Transport.occupied, Transport.row, List.getD_eq_default _ _ (Nat.le_of_not_lt hr)] at h
  exact absurd h (by decide)

theorem Transport.row_eq_getElem {x : Transport} {r : Nat} (h : r < x.rows.length) : x.row r = x.rows[r] := by
  simp [Transport.row, h]

@[simp] theorem Transport.setRow_rows (x : Transport) (r : Nat) (w : Row) : (x.setRow r w).rows = x.rows.set r w := rfl
@[simp] theorem Transport.setRow_rd (x : Transport) (r : Nat) (w : Row) : (x.setRow r w).rd = x.rd := rfl
@[simp] theorem Transport.setRow_wr (x : Transport) (r : Nat) (w : Row) : (x.setRow r w).wr = x.wr := rfl
@[simp] theorem Transport.setRow_phase (x : Transport) (r : Nat) (w : Row) : (x.setRow r w).phase = x.phase := rfl
@[simp] theorem Transport.setRow_txIdx (x : Transport) (r : Nat) (w : Row) : (x.setRow r w).txIdx = x.txIdx := rfl
@[simp] theorem Transport.setRow_rxIdx (x : Transport) (r : Nat) (w : Row) : (x.setRow r w).rxIdx = x.rxIdx := rfl
@[simp] theorem Transport.setRow_infl (x : Transport) (r : Nat) (w : Row) : (x.setRow r w).infl = x.infl := rfl
@[simp] theorem Transport.setRow_bcPend (x : Transport) (r : Nat) (w : Row) : (x.setRow r w).bcPend = x.bcPend := rfl
@[simp] theorem Transport.setRow_rxData (x : Transport) (r : Nat) (w : Row) : (x.setRow r w).rxData = x.rxData := rfl

theorem Transport.row_setRow_same {x : Transport} {r : Nat} (w : Row) (h : r < x.rows.length) :
    (x.setRow r w).row r = w := by
  simp [Transport.row, Transport.setRow, h]

theorem Transport.row_setRow_other (x : Transport) {r q : Nat} (w : Row) (h : q ≠ r) :
    (x.setRow r w).row q = x.row q := by
  simp [Transport.row, Transport.setRow, List.getD_eq_getElem?_getD, List.getElem?_set_ne (Ne.symm h)]

theorem Transport.count_eq_countP (x : Transport) : x.count = x.rows.countP Row.occupied :=
  (List.countP_eq_length_filter ..).symm

theorem Transport.count_le (x : Transport) : x.count ≤ x.rows.length := List.length_filter_le ..

/-- Writing a row changes the count by that row alone. -/
theorem Transport.count_setRow {x : Transport} {r : Nat} (w : Row) (h : r < x.rows.length) :
    (x.setRow r w).count + (if x.occupied r then 1 else 0) = x.count + (if w.occupied then 1 else 0) := by
  rw [Transport.count_eq_countP, Transport.count_eq_countP, Transport.setRow_rows, List.countP_set h,
    Transport.occupied, Transport.row_eq_getElem h]
  have hp : (if x.rows[r].occupied = true then 1 else 0) ≤ x.rows.countP Row.occupied := by
    split
    · next ho => exact List.countP_pos_iff.mpr ⟨_, List.getElem_mem h, ho⟩
    · exact Nat.zero_le _
  omega

/-! ## StartRow -/

theorem State.completeRow_count {s : State} {t : Bus} (h : (s.xport t).occupied (s.xport t).rd = true) :
    ((s.completeRow t).xport t).count + 1 = (s.xport t).count := by
  have hr := Transport.lt_of_occupied h
  have hc := Transport.count_setRow (x := s.xport t)
    { (s.xport t).row (s.xport t).rd with txLen := emptyLen } hr
  simp only [h, Row.occupied, ne_eq, not_true_eq_false, decide_false, if_true, Bool.false_eq_true, if_false] at hc
  rw [State.xport_completeRow_same]
  exact hc

/-- One iteration of the loop (42_transport R196). -/
theorem State.startRowLoop_step (n : Nat) (t : Bus) (s : State) :
    s.startRowLoop (n + 1) t =
      if ((s.xport t).row (s.xport t).rd).txLen = emptyLen then s.setPhase t .idle 0 0
      else if 0 < ((s.xport t).row (s.xport t).rd).txLen.toNat then
        (s.setPhase t .sending 1 0).load t (((s.xport t).row (s.xport t).rd).dataAt 0)
      else if 0 < ((s.xport t).row (s.xport t).rd).rxLen.toNat then
        (s.setPhase t .receiving 0 0).load t (s.cfg.bus t).fill
      else (s.completeRow t).startRowLoop n t := rfl

/-- More iterations than occupied rows make no difference. -/
theorem State.startRowLoop_succ (t : Bus) (n : Nat) (s : State) (h : (s.xport t).count < n) :
    s.startRowLoop (n + 1) t = s.startRowLoop n t := by
  induction n generalizing s with
  | zero => omega
  | succ n ih =>
    rw [State.startRowLoop_step (n + 1) t s, State.startRowLoop_step n t s]
    split
    · rfl
    · next hne =>
      split
      · rfl
      · split
        · rfl
        · have ho : (s.xport t).occupied (s.xport t).rd = true := by
            simpa [Transport.occupied, Row.occupied_iff] using hne
          exact ih _ (by have := State.completeRow_count ho; omega)

theorem State.startRowLoop_enough (t : Bus) (k n : Nat) (s : State) (h : (s.xport t).count < n) :
    s.startRowLoop (n + k) t = s.startRowLoop n t := by
  induction k with
  | zero => rfl
  | succ k ih => rw [← Nat.add_assoc, State.startRowLoop_succ t (n + k) s (by omega), ih]

@[simp] theorem State.completeRow_rows_length (s : State) (t : Bus) :
    ((s.completeRow t).xport t).rows.length = (s.xport t).rows.length := by
  simp

/-- The loop of 42_transport R196 with no bound: one iteration, then the loop again after a zero-length row. -/
theorem State.startRow_eq (s : State) (t : Bus) :
    s.startRow t =
      if ((s.xport t).row (s.xport t).rd).txLen = emptyLen then s.setPhase t .idle 0 0
      else if 0 < ((s.xport t).row (s.xport t).rd).txLen.toNat then
        (s.setPhase t .sending 1 0).load t (((s.xport t).row (s.xport t).rd).dataAt 0)
      else if 0 < ((s.xport t).row (s.xport t).rd).rxLen.toNat then
        (s.setPhase t .receiving 0 0).load t (s.cfg.bus t).fill
      else (s.completeRow t).startRow t := by
  rw [State.startRow, State.startRowLoop_step _ t s]
  split
  · rfl
  · next hne =>
    split
    · rfl
    · split
      · rfl
      · have ho : (s.xport t).occupied (s.xport t).rd = true := by
          simpa [Transport.occupied, Row.occupied_iff] using hne
        have hc := State.completeRow_count ho
        have hl := Transport.count_le (s.xport t)
        rw [State.startRow.eq_1 t (s.completeRow t), State.completeRow_rows_length]
        exact (State.startRowLoop_succ t _ _ (by omega)).symm

/-- Induction over the iterations of `StartRow`: what holds of a state with no row left, with a byte loaded, and after a
zero-length row is completed, holds of every state. -/
theorem State.startRow_induction (t : Bus) {P : State → State → Prop}
    (idle : ∀ s : State, ((s.xport t).row (s.xport t).rd).txLen = emptyLen → P s (s.setPhase t .idle 0 0))
    (sending : ∀ s : State, ((s.xport t).row (s.xport t).rd).txLen ≠ emptyLen →
      0 < ((s.xport t).row (s.xport t).rd).txLen.toNat →
      P s ((s.setPhase t .sending 1 0).load t (((s.xport t).row (s.xport t).rd).dataAt 0)))
    (receiving : ∀ s : State, ((s.xport t).row (s.xport t).rd).txLen = 0#8 →
      0 < ((s.xport t).row (s.xport t).rd).rxLen.toNat →
      P s ((s.setPhase t .receiving 0 0).load t (s.cfg.bus t).fill))
    (again : ∀ s : State, ((s.xport t).row (s.xport t).rd).txLen = 0#8 →
      ((s.xport t).row (s.xport t).rd).rxLen = 0#8 →
      P (s.completeRow t) ((s.completeRow t).startRow t) → P s ((s.completeRow t).startRow t))
    (s : State) : P s (s.startRow t) := by
  induction hn : (s.xport t).count using Nat.strong_induction_on generalizing s with
  | _ n ih =>
    rw [State.startRow_eq]
    split
    · next h => exact idle s h
    · next hne =>
      split
      · next h => exact sending s hne h
      · next hz =>
        have hz' : ((s.xport t).row (s.xport t).rd).txLen = 0#8 := by
          apply BitVec.eq_of_toNat_eq; simpa using hz
        split
        · next h => exact receiving s hz' h
        · next hr =>
          have hr' : ((s.xport t).row (s.xport t).rd).rxLen = 0#8 := by
            apply BitVec.eq_of_toNat_eq; simpa using hr
          have ho : (s.xport t).occupied (s.xport t).rd = true := by
            simpa [Transport.occupied, Row.occupied_iff] using hne
          have hc := State.completeRow_count ho
          exact again s hz' hr' (ih _ (by omega) (s.completeRow t) rfl)

/-- What `StartRow(t)` leaves: everything but `T[t]`, `E` and the trace. -/
structure State.KeptByTransport (t : Bus) (s s' : State) : Prop where
  cfg : s'.cfg = s.cfg
  ie : s'.ie = s.ie
  tickPend : s'.tickPend = s.tickPend
  cmp : s'.cmp = s.cmp
  slots : s'.slots = s.slots
  nreg : s'.nreg = s.nreg
  other : ∀ u, u ≠ t → s'.xport u = s.xport u
  met : s'.met = s.met
  main : s'.main = s.main
  isr : s'.isr = s.isr
  fault : s'.fault = s.fault
  dm : s'.dm = s.dm
  program : s'.program = s.program
  mainPos : s'.mainPos = s.mainPos
  cbPos : s'.cbPos = s.cbPos
  moves : s'.moves = s.moves
  events : s'.events = s.events ∨ s'.events = s.events ||| eventBit (s.cfg.bus t).evDone
  trace : s.trace <+: s'.trace

theorem State.KeptByTransport.trans {t : Bus} {s s' s'' : State} (h : s.KeptByTransport t s')
    (h' : s'.KeptByTransport t s'') : s.KeptByTransport t s'' where
  cfg := h'.cfg.trans h.cfg
  ie := h'.ie.trans h.ie
  tickPend := h'.tickPend.trans h.tickPend
  cmp := h'.cmp.trans h.cmp
  slots := h'.slots.trans h.slots
  nreg := h'.nreg.trans h.nreg
  other := fun u hu => (h'.other u hu).trans (h.other u hu)
  met := h'.met.trans h.met
  main := h'.main.trans h.main
  isr := h'.isr.trans h.isr
  fault := h'.fault.trans h.fault
  dm := h'.dm.trans h.dm
  program := h'.program.trans h.program
  mainPos := h'.mainPos.trans h.mainPos
  cbPos := h'.cbPos.trans h.cbPos
  moves := h'.moves.trans h.moves
  events := by
    have e := h'.events
    rw [h.cfg] at e
    rcases h.events with h1 | h1 <;> rcases e with h2 | h2 <;> rw [h1] at h2
    · exact .inl h2
    · exact .inr h2
    · exact .inr h2
    · right; rw [h2, BitVec.or_assoc, BitVec.or_self]
  trace := h.trace.trans h'.trace

/-- The same, as one equation between states. -/
theorem State.KeptByTransport.eq {t : Bus} {s s' : State} (h : s.KeptByTransport t s') :
    s' = { s.setXport t (s'.xport t) with events := s'.events, trace := s'.trace } := by
  cases t with
  | a =>
    have hb : s'.busB = s.busB := h.other .b (by decide)
    simp [State.setXport, State.xport, ← h.cfg, ← h.ie, ← h.tickPend, ← h.cmp, ← h.slots, ← h.nreg, ← hb, ← h.met, ← h.main,
      ← h.isr, ← h.fault, ← h.dm, ← h.program, ← h.mainPos, ← h.cbPos, ← h.moves]
  | b =>
    have ha : s'.busA = s.busA := h.other .a (by decide)
    simp [State.setXport, State.xport, ← h.cfg, ← h.ie, ← h.tickPend, ← h.cmp, ← h.slots, ← h.nreg, ← ha, ← h.met, ← h.main,
      ← h.isr, ← h.fault, ← h.dm, ← h.program, ← h.mainPos, ← h.cbPos, ← h.moves]

theorem State.modXport_kept (t : Bus) (s : State) (f : Transport → Transport) :
    s.KeptByTransport t (s.modXport t f) := by
  constructor <;> first | exact fun u hu => State.xport_modXport_other s f hu | simp

theorem State.load_kept (t : Bus) (s : State) (x : Byte) : s.KeptByTransport t (s.load t x) := by
  constructor <;> first | exact fun u hu => State.xport_load_other s x hu | simp

theorem State.setPhase_kept (t : Bus) (s : State) (p : Phase) (tx rx : Nat) :
    s.KeptByTransport t (s.setPhase t p tx rx) :=
  State.modXport_kept t s _

theorem State.appendRow_kept (t : Bus) (s : State) (bs : List Byte) (ds : List Addr) :
    s.KeptByTransport t (s.appendRow t bs ds) :=
  State.modXport_kept t s _

theorem State.finish_kept (t : Bus) (s : State) (op : OpName) (st : Status) (v : Half) :
    s.KeptByTransport t (s.finish op st v) := by
  constructor <;> first | exact fun u _ => State.xport_finish s op st v u | simp

theorem State.completeRow_kept (t : Bus) (s : State) : s.KeptByTransport t (s.completeRow t) := by
  constructor <;> first | exact fun u hu => State.xport_completeRow_other s hu | simp

theorem State.startRow_kept (t : Bus) (s : State) : s.KeptByTransport t (s.startRow t) :=
  State.startRow_induction t (P := fun s s' => s.KeptByTransport t s')
    (fun s _ => s.setPhase_kept t .idle 0 0)
    (fun s _ _ => (s.setPhase_kept t .sending 1 0).trans (State.load_kept t _ _))
    (fun s _ _ => (s.setPhase_kept t .receiving 0 0).trans (State.load_kept t _ _))
    (fun s _ _ h => (s.completeRow_kept t).trans h) s

theorem State.nextRow_kept (t : Bus) (s : State) : s.KeptByTransport t (s.nextRow t) :=
  (s.completeRow_kept t).trans (State.startRow_kept t _)

theorem State.bcSending_kept (t : Bus) (s : State) : s.KeptByTransport t (s.bcSending t) := by
  unfold State.bcSending
  simp only
  split
  · exact (s.load_kept t _).trans (State.modXport_kept t _ _)
  · split
    · exact (s.modXport_kept t _).trans (State.load_kept t _ _)
    · exact s.nextRow_kept t

/-- What `StartRow(t)` leaves of its own instance: the pending flag, the received byte, the producer cursor, the rows'
number, and every row but the zero-length ones it retires, which keep all but `tx_len` (42_transport R196, R197). -/
structure Transport.KeptByStartRow (x x' : Transport) : Prop where
  bcPend : x'.bcPend = x.bcPend
  rxData : x'.rxData = x.rxData
  wr : x'.wr = x.wr
  rowsLength : x'.rows.length = x.rows.length
  row : ∀ r, x'.row r = x.row r ∨
    (x.row r).txLen = 0#8 ∧ (x.row r).rxLen = 0#8 ∧ x'.row r = { x.row r with txLen := emptyLen }

theorem Transport.KeptByStartRow.trans {x x' x'' : Transport} (h : x.KeptByStartRow x') (h' : x'.KeptByStartRow x'') :
    x.KeptByStartRow x'' where
  bcPend := h'.bcPend.trans h.bcPend
  rxData := h'.rxData.trans h.rxData
  wr := h'.wr.trans h.wr
  rowsLength := h'.rowsLength.trans h.rowsLength
  row r := by
    rcases h.row r with e | ⟨htx, hrx, e⟩ <;> rcases h'.row r with e' | ⟨htx', hrx', e'⟩
    · exact .inl (e'.trans e)
    · rw [e] at htx' hrx' e'
      exact .inr ⟨htx', hrx', e'⟩
    · exact .inr ⟨htx, hrx, e'.trans e⟩
    · rw [e] at htx'
      exact absurd (show emptyLen = 0#8 from htx') (by decide)

theorem State.completeRow_keptByStartRow {t : Bus} {s : State} (htx : ((s.xport t).row (s.xport t).rd).txLen = 0#8)
    (hrx : ((s.xport t).row (s.xport t).rd).rxLen = 0#8) :
    (s.xport t).KeptByStartRow ((s.completeRow t).xport t) := by
  have ho : (s.xport t).occupied (s.xport t).rd = true := by simp [Transport.occupied, Row.occupied, htx, emptyLen]
  constructor
  case row =>
    intro r
    rw [State.xport_completeRow_same]
    by_cases hr : r = (s.xport t).rd
    · subst hr
      exact .inr ⟨htx, hrx, Transport.row_setRow_same _ (Transport.lt_of_occupied ho)⟩
    · exact .inl (Transport.row_setRow_other _ _ hr)
  all_goals simp [Transport.setRow]

theorem State.startRow_keptByStartRow (t : Bus) (s : State) : (s.xport t).KeptByStartRow ((s.startRow t).xport t) :=
  State.startRow_induction t (P := fun s s' => (s.xport t).KeptByStartRow (s'.xport t))
    (fun s _ => by constructor <;> simp [Transport.row])
    (fun s _ _ => by constructor <;> simp [Transport.row])
    (fun s _ _ => by constructor <;> simp [Transport.row])
    (fun _ htx hrx h => (State.completeRow_keptByStartRow htx hrx).trans h) s

/-- What the ISR body can answer in phase Receiving: the raise of `BAD_DEST` alone, or the byte stored at the destination
and then Transport changes only (42_transport R201). -/
theorem State.bcReceiving_cases (t : Bus) (s : State) :
    (s.cfg.destOk ((s.currentRow t).destAt (s.xport t).rxIdx) = false ∧
      s.bcReceiving t = .error (s.raiseFault (.badDest ((s.currentRow t).destAt (s.xport t).rxIdx)))) ∨
    (s.cfg.destOk ((s.currentRow t).destAt (s.xport t).rxIdx) = true ∧
      ∃ s', s.bcReceiving t = .ok s' ∧
        State.KeptByTransport t
          { s with
            dm := Memory.write s.dm ((s.currentRow t).destAt (s.xport t).rxIdx).toNat (s.xport t).rxData
            trace := s.trace ++ [.mem ((s.currentRow t).destAt (s.xport t).rxIdx) (s.xport t).rxData] } s') := by
  rcases s.memWrite_cases ((s.currentRow t).destAt (s.xport t).rxIdx) (s.xport t).rxData with ⟨h, hm⟩ | ⟨h, hm⟩
  · refine .inr ⟨h, ?_⟩
    unfold State.bcReceiving
    simp only [hm]
    split
    · exact ⟨_, rfl, (State.modXport_kept t _ _).trans (State.load_kept t _ _)⟩
    · exact ⟨_, rfl, (State.modXport_kept t _ _).trans (State.nextRow_kept t _)⟩
  · refine .inl ⟨h, ?_⟩
    unfold State.bcReceiving
    simp only [hm]
    rfl

end Sys2Proof.Machine
end

