-- ==== Sys2Proof/Laws/Step.lean ====
section
/-! SUPPORT. What a step can do, said once: `State.took_of_take` gives the case a move that answers a next state belongs
to, `step_eq` and `step_inv` reduce a step to its move. -/

namespace Sys2Proof

/-- The event input decodes to nothing but the two events (30_encoding R109). -/
theorem decodeEvent_cases {w : Word} {i : Instr} (h : decodeEvent w = .ok i) :
    (w = 0xE0000000#32 ∧ i = .tick) ∨
      (opcodeOf w = 0xE1#8 ∧ w &&& 0x00FEFF00#32 = 0#32 ∧ i = .bytedone (busField w) (lowByte w)) := by
  unfold decodeEvent at h
  split at h
  · next hw => exact .inl ⟨hw, by injection h with h; exact h.symm⟩
  · split at h
    · next hw => exact .inr ⟨hw.1, hw.2, by injection h with h; exact h.symm⟩
    · cases h

theorem decodeFields_not_event {w : Word} {ops : List Word} {i : Instr} (h : decodeFields w ops = .ok i) :
    i.isEvent = false := by
  unfold decodeFields decodeEnq at h
  simp only at h
  repeat' split at h
  all_goals first | cases h; rfl | cases h

/-- The operation port never decodes to an event (30_encoding R112). -/
theorem decodeOp_not_event {p : OpWords} {i : Instr} (h : decodeOp p = .ok i) : i.isEvent = false := by
  unfold decodeOp at h
  split at h
  · split at h <;> cases h
  · split at h
    · cases h
    · split at h
      · cases h
      · exact decodeFields_not_event h

namespace Machine

/-- What a move that is taken does, by cases (10_state R30, R52). -/
inductive State.Took : Move → State → State → Prop
  | operation (s : State) {s' : State} {p : OpWords} {i : Instr} (noProgram : s.program = none)
      (ready : s.ready .sw = true) (decoded : decodeOp p = .ok i) (run : exec i s = .next s') :
      State.Took (.software p) s s'
  | illegal (s : State) {p : OpWords} {e : DecodeError} (noProgram : s.program = none) (ready : s.ready .sw = true)
      (decoded : decodeOp p = .error e) : State.Took (.software p) s s.illegal
  | routine (s : State) {s' : State} {p : OpWords} {i : Instr} (ready : s.ready .sw = true)
      (next : s.nextOp = some p) (decoded : decodeOp p = .ok i) (run : exec i s.advance = .next s') :
      State.Took .routine s s'
  | routineIllegal (s : State) {p : OpWords} {e : DecodeError} (ready : s.ready .sw = true)
      (next : s.nextOp = some p) (decoded : decodeOp p = .error e) : State.Took .routine s s.advance.illegal
  | scan (s : State) (b : Fin 32) (isr : s.isr = .none) (main : s.main = .scan b) :
      State.Took .dispatcher s (s.scanBit b)
  | tickEntry (s : State) (isr : s.isr = .none) (ie : s.ie = true) (pending : s.tickPend = true) :
      State.Took (.interrupt .tick) s (s.enterInterrupt .tick)
  | byteComplete (s : State) (t : Bus) (isr : s.isr = .none) (ie : s.ie = true)
      (pending : (s.xport t).bcPend = true) : State.Took (.interrupt (.bc t)) s (s.byteComplete t)
  | tickScan (s : State) (i : Nat) (isr : s.isr = .tick i) : State.Took .tickScan s (s.tickScan i)
  | tick (s : State) {w : Word} (decoded : decodeEvent w = .ok .tick) :
      State.Took (.event w) s { s with tickPend := true }
  | bytedone (s : State) {w : Word} (t : Bus) (v : Byte) (decoded : decodeEvent w = .ok (.bytedone t v))
      (inFlight : (s.xport t).infl.isSome = true) :
      State.Took (.event w) s
        ((s.modXport t fun x => { x with infl := none, rxData := v, bcPend := true }).emit (.rx t v))
  | externalWrite (s : State) (a : Addr) (v : Byte) : State.Took (.externalWrite a v) s (s.writeFromOutside a v)
  | externalReset (s : State) (launch : List (Addr × Byte)) :
      State.Took (.externalReset launch) s (s.resetFromOutside launch)

/-- The inversion of a move: no fault is recorded, unless it is the reset, and one of the cases holds. -/
theorem State.took_of_take {s s' : State} {m : Move} (h : s.take m = .next s') :
    (m.isReset = false → s.fault.any = false) ∧ s.Took m s' := by
  unfold State.take at h
  split at h
  · cases h
  · next hf =>
    split at h
    · next ha =>
      refine ⟨fun hr => by simpa [hr] using hf, ?_⟩
      cases m with
      | software p =>
        simp only [State.allows, Bool.and_eq_true, Option.isNone_iff_eq_none] at ha
        simp only [State.perform, State.issue] at h
        cases hd : decodeOp p with
        | ok i => rw [hd] at h; exact .operation s ha.2 ha.1 hd h
        | error e => rw [hd] at h; cases h; exact .illegal s ha.2 ha.1 hd
      | routine =>
        simp only [State.allows, Bool.and_eq_true] at ha
        simp only [State.perform, State.issueNext] at h
        cases hn : s.nextOp with
        | none => rw [hn] at h; cases h
        | some p =>
          rw [hn] at h
          simp only [State.issue] at h
          cases hd : decodeOp p with
          | ok i => rw [hd] at h; exact .routine s ha.1 hn hd h
          | error e => rw [hd] at h; cases h; exact .routineIllegal s ha.1 hn hd
      | dispatcher =>
        simp only [State.perform, State.dispatcherStep] at h
        simp only [State.allows, State.ready] at ha
        split at h
        · next b hm =>
          cases h
          refine .scan s b ?_ hm
          split at ha <;> first | assumption | simp at ha
        · cases h
        · cases h
      | interrupt src =>
        simp only [State.allows, State.ready, Bool.and_eq_true, decide_eq_true_eq] at ha
        cases src with
        | tick => cases h; exact .tickEntry s ha.1.1 ha.1.2 ha.2
        | bc t => cases h; exact .byteComplete s t ha.1.1 ha.1.2 ha.2
      | tickScan =>
        simp only [State.perform, State.tickScanStep] at h
        split at h
        · next i hi => cases h; exact .tickScan s i hi
        · cases h
        · cases h
      | event w =>
        simp only [State.perform, State.eventStep] at h
        cases hd : decodeEvent w with
        | error e => rw [hd] at h; cases h
        | ok i =>
          rw [hd] at h
          rcases decodeEvent_cases hd with ⟨-, rfl⟩ | ⟨-, -, rfl⟩
          · cases h; exact .tick s hd
          · simp only [State.allows, State.ready, hd] at ha
            simp only [exec, execBytedone, ha, if_true] at h
            cases h
            exact .bytedone s _ _ hd ha
      | externalWrite a v => cases h; exact .externalWrite s a v
      | externalReset launch => cases h; exact .externalReset s launch
    · cases h

/-- The converse: a case that holds is taken. -/
theorem State.take_of_took {s s' : State} {m : Move} (hf : m.isReset = false → s.fault.any = false)
    (h : s.Took m s') : s.take m = .next s' := by
  have h1 : (s.fault.any && !m.isReset) = false := by
    cases hr : m.isReset
    · simp [hf hr]
    · simp
  unfold State.take
  rw [h1]
  cases h with
  | operation s hp hr hd he => simp [State.allows, State.perform, State.issue, hp, hr, hd, he]
  | illegal s hp hr hd => simp [State.allows, State.perform, State.issue, hp, hr, hd]
  | routine s hr hn hd he =>
    have hp : s.program.isSome = true := by
      cases hq : s.program with
      | none => simp [State.nextOp, hq] at hn
      | some p => rfl
    simp [State.allows, State.perform, State.issueNext, State.issue, hp, hr, hn, hd, he]
  | routineIllegal s hr hn hd =>
    have hp : s.program.isSome = true := by
      cases hq : s.program with
      | none => simp [State.nextOp, hq] at hn
      | some p => rfl
    simp [State.allows, State.perform, State.issueNext, State.issue, hp, hr, hn, hd]
  | scan s b hi hm => simp [State.allows, State.ready, State.perform, State.dispatcherStep, hi, hm]
  | tickEntry s hi hie hp => simp [State.allows, State.ready, State.pending, State.perform, State.interruptStep, hi, hie, hp]
  | byteComplete s t hi hie hp =>
    simp [State.allows, State.ready, State.pending, State.perform, State.interruptStep, hi, hie, hp]
  | tickScan s i hi => simp [State.allows, State.ready, State.perform, State.tickScanStep, hi]
  | tick s hd => simp [State.allows, State.perform, State.eventStep, hd, exec, execTick]
  | bytedone s t v hd hi => simp [State.allows, State.ready, State.perform, State.eventStep, hd, hi, exec, execBytedone]
  | externalWrite a v => simp [State.allows, State.perform]
  | externalReset launch => simp [State.allows, State.perform]

@[simp] theorem FaultSet.empty_any : FaultSet.empty.any = false := rfl

/-- `FAULT = {}` as a Bool and as an equation. -/
theorem FaultSet.any_eq_false_iff (f : FaultSet) : f.any = false ↔ f = FaultSet.empty := by
  cases f
  simp [FaultSet.any, FaultSet.empty, and_assoc]

/-- Software that may issue an operation is ready (10_state R52). -/
theorem State.ready_of_softwareRuns {s : State} (h : s.softwareRuns) : s.ready .sw = true := by
  rcases h with ⟨i, h⟩ | ⟨h, h2 | ⟨b, h2⟩⟩ <;> simp [State.ready, *]

/-- A step is its next move (log 3). -/
theorem step_eq {s : State} {m : Move} {rest : List Move} (hc : s.cfg.wf = true) (hm : s.moves = m :: rest) :
    step s = { s with moves := rest }.take m := by
  simp [step, State.next, hc, hm]

/-- The step of a state that is about to take a move. -/
theorem step_of_willTake {s : State} {m : Move} {rest : List Move} (h : s.willTake m rest) :
    step s = { s with moves := rest }.take m :=
  step_eq h.1 h.2.2

/-- The step of a state that is about to take a move, by the move's case. -/
theorem step_of_took {s s' : State} {m : Move} {rest : List Move} (h : s.willTake m rest)
    (ht : State.Took m { s with moves := rest } s') : step s = .next s' := by
  rw [step_of_willTake h]
  exact State.take_of_took (fun _ => by simp [h.2.1]) ht

/-- The inversion of a step. -/
theorem step_inv {s s' : State} (h : step s = .next s') :
    s.cfg.wf = true ∧ ∃ m rest, s.moves = m :: rest ∧ { s with moves := rest }.take m = .next s' := by
  unfold step State.next at h
  split at h
  · next hc =>
    split at h
    · next m rest hm => exact ⟨hc, m, rest, hm, h⟩
    · split at h <;> cases h
  · cases h

end Machine

end Sys2Proof
end

