-- ==== Sys2Proof/Laws/Schedule.lean ====
section
/-! SUPPORT. No move reads the schedule: what a move does is the same whatever moves are still to come, so that following
a schedule is taking its moves one after another. -/

namespace Sys2Proof.Machine

/-- The state with another schedule. -/
abbrev State.withMoves (s : State) (ms : List Move) : State := { s with moves := ms }

theorem State.modXport_withMoves (ms : List Move) (t : Bus) (f : Transport → Transport) (s : State) :
    (s.withMoves ms).modXport t f = (s.modXport t f).withMoves ms := by
  cases t <;> rfl

theorem State.load_withMoves (ms : List Move) (t : Bus) (x : Byte) (s : State) :
    (s.withMoves ms).load t x = (s.load t x).withMoves ms := by
  cases t <;> rfl

theorem State.startRowLoop_withMoves (ms : List Move) (n : Nat) (t : Bus) (s : State) :
    (s.withMoves ms).startRowLoop n t = (s.startRowLoop n t).withMoves ms := by
  induction n generalizing s with
  | zero => rfl
  | succ n ih =>
    rw [State.startRowLoop_step n t (s.withMoves ms), State.startRowLoop_step n t s]
    have hx : (s.withMoves ms).xport t = s.xport t := by cases t <;> rfl
    rw [hx]
    split
    · cases t <;> rfl
    · split
      · cases t <;> rfl
      · split
        · cases t <;> rfl
        · have hc : (s.withMoves ms).completeRow t = (s.completeRow t).withMoves ms := by cases t <;> rfl
          rw [hc, ih]

theorem State.startRow_withMoves (ms : List Move) (t : Bus) (s : State) :
    (s.withMoves ms).startRow t = (s.startRow t).withMoves ms := by
  have hx : (s.withMoves ms).xport t = s.xport t := by cases t <;> rfl
  rw [State.startRow.eq_1, State.startRow.eq_1, hx, State.startRowLoop_withMoves]

theorem State.nextRow_withMoves (ms : List Move) (t : Bus) (s : State) :
    (s.withMoves ms).nextRow t = (s.nextRow t).withMoves ms := by
  have hc : (s.withMoves ms).completeRow t = (s.completeRow t).withMoves ms := by cases t <;> rfl
  rw [State.nextRow, State.nextRow, hc, State.startRow_withMoves]

/-- An instruction does the same whatever moves are still to come. -/
theorem exec_withMoves {i : Instr} {s s' : State} (ms : List Move) (h : exec i s = .next s') :
    exec i (s.withMoves ms) = .next (s'.withMoves ms) := by
  cases i with
  | register id cb =>
    simp only [exec, execRegister] at h ⊢
    have hf : (s.withMoves ms).find id = s.find id := rfl
    rw [hf]
    cases hid : s.find id with
    | some i => rw [hid] at h; cases h; rfl
    | none =>
      rw [hid] at h
      simp only at h ⊢
      by_cases hn : s.nreg = s.cfg.nTimers
      · rw [if_pos hn] at h; cases h; exact if_pos hn
      · rw [if_neg hn] at h; cases h; exact if_neg hn
  | start id dur =>
    simp only [exec, execStart] at h ⊢
    have hf : (s.withMoves ms).find id = s.find id := rfl
    rw [hf]
    cases hid : s.find id with
    | some i => rw [hid] at h; cases h; rfl
    | none => rw [hid] at h; cases h; rfl
  | stop id =>
    simp only [exec, execStop] at h ⊢
    have hf : (s.withMoves ms).find id = s.find id := rfl
    rw [hf]
    cases hid : s.find id with
    | some i => rw [hid] at h; cases h; rfl
    | none => rw [hid] at h; cases h; rfl
  | elapsed id =>
    simp only [exec, execElapsed] at h ⊢
    have hf : (s.withMoves ms).find id = s.find id := rfl
    rw [hf]
    cases hid : s.find id with
    | some i => rw [hid] at h; cases h; rfl
    | none => rw [hid] at h; cases h; rfl
  | post mask =>
    simp only [exec, execPost] at h ⊢
    have hu : (s.withMoves ms).unmapped mask = s.unmapped mask := rfl
    rw [hu]
    split at h <;> cases h
    · next hm => rw [if_pos hm]; rfl
    · next hm => rw [if_neg hm]; rfl
  | enq t bs ds =>
    simp only [exec, execEnq] at h ⊢
    have hx : (s.withMoves ms).xport t = s.xport t := by cases t <;> rfl
    have ha : (s.withMoves ms).appendRow t bs ds = (s.appendRow t bs ds).withMoves ms := by cases t <;> rfl
    rw [hx, ha]
    by_cases h1 : (s.cfg.bus t).rowCap < bs.length + ds.length
    · rw [if_pos h1] at h; cases h; exact if_pos h1
    · rw [if_neg h1] at h
      rw [if_neg h1]
      by_cases h2 : (s.xport t).full = true
      · rw [if_pos h2] at h; cases h; exact if_pos h2
      · rw [if_neg h2] at h
        rw [if_neg h2]
        by_cases h3 : (s.xport t).phase = .idle
        · rw [if_pos h3] at h
          cases h
          rw [if_pos h3, State.startRow_withMoves]
          rfl
        · rw [if_neg h3] at h
          cases h
          rw [if_neg h3]
          rfl
  | ret =>
    simp only [exec, execRet] at h ⊢
    rcases hi : s.isr with _ | i | i
    · rcases hm : s.main with _ | b | b
      · rw [hi, hm] at h; cases h; rfl
      · rw [hi, hm] at h; cases h
      · rw [hi, hm] at h
        simp only at h ⊢
        by_cases he : s.ie = true
        · rw [if_pos he] at h; cases h; exact if_pos he
        · rw [if_neg he] at h; cases h; exact if_neg he
    · rw [hi] at h; cases h
    · rw [hi] at h; cases h; rfl
  | csenter => cases h; rfl
  | csexit v =>
    simp only [exec, execCsexit] at h ⊢
    by_cases hw : s.isr ≠ .none ∧ v = true
    · rw [if_pos hw] at h; cases h; exact if_pos hw
    · rw [if_neg hw] at h; cases h; exact if_neg hw
  | rdmetric sel => cases h; rfl
  | tick => cases h; rfl
  | bytedone t v =>
    simp only [exec, execBytedone] at h ⊢
    have hx : (s.withMoves ms).xport t = s.xport t := by cases t <;> rfl
    rw [hx]
    split at h <;> cases h
    next hi => rw [if_pos hi]; cases t <;> rfl

theorem State.byteComplete_withMoves (ms : List Move) (t : Bus) (s : State) :
    (s.withMoves ms).byteComplete t = (s.byteComplete t).withMoves ms := by
  have hb : ∀ u : State, (u.withMoves ms).bcBody t =
      match u.bcBody t with
      | .ok v => .ok (v.withMoves ms)
      | .error v => .error (v.withMoves ms) := by
    intro u
    have hx : (u.withMoves ms).xport t = u.xport t := by cases t <;> rfl
    have hr : (u.withMoves ms).currentRow t = u.currentRow t := by cases t <;> rfl
    simp only [State.bcBody, hx]
    cases (u.xport t).phase with
    | idle => rfl
    | sending =>
      simp only [State.bcSending, hx, hr, State.nextRow_withMoves]
      by_cases h1 : (u.xport t).txIdx < (u.currentRow t).txLen.toNat
      · simp only [if_pos h1]; cases t <;> rfl
      · simp only [if_neg h1]
        by_cases h2 : 0 < (u.currentRow t).rxLen.toNat
        · simp only [if_pos h2]; cases t <;> rfl
        · simp only [if_neg h2]
    | receiving =>
      simp only [State.bcReceiving, hx, hr, State.memWrite]
      cases u.cfg.destOk ((u.currentRow t).destAt (u.xport t).rxIdx) with
      | false => rfl
      | true =>
        generalize hg : State.emit _ _ = g
        generalize hg' : State.emit _ _ = g'
        obtain rfl : g = g'.withMoves ms := by rw [← hg, ← hg']; rfl
        simp only [if_true, State.modXport_withMoves, State.load_withMoves, State.nextRow_withMoves]
        by_cases hl : (u.xport t).rxIdx + 1 < (u.currentRow t).rxLen.toNat
        · simp only [if_pos hl]
        · simp only [if_neg hl]
  have he : (s.withMoves ms).enterInterrupt (.bc t) = (s.enterInterrupt (.bc t)).withMoves ms := by cases t <;> rfl
  rw [State.byteComplete, State.byteComplete, he, hb]
  cases (s.enterInterrupt (.bc t)).bcBody t <;> rfl

/-- A move does the same whatever moves are still to come. -/
theorem State.take_withMoves {s s' : State} {m : Move} (ms : List Move) (h : s.take m = .next s') :
    (s.withMoves ms).take m = .next (s'.withMoves ms) := by
  obtain ⟨hf, ht⟩ := State.took_of_take h
  refine State.take_of_took hf ?_
  cases ht with
  | operation s hp hr hd he => exact .operation _ hp hr hd (exec_withMoves ms he)
  | illegal s hp hr hd => exact .illegal (s.withMoves ms) hp hr hd
  | routine s hr hn hd he =>
    refine .routine _ hr hn hd ?_
    have ha : (s.withMoves ms).advance = s.advance.withMoves ms := by
      simp only [State.advance]
      cases s.isr <;> rfl
    rw [ha]
    exact exec_withMoves ms he
  | routineIllegal s hr hn hd =>
    have ha : (s.advance.illegal).withMoves ms = (s.withMoves ms).advance.illegal := by
      simp only [State.advance]
      cases s.isr <;> rfl
    rw [ha]
    exact .routineIllegal _ hr hn hd
  | scan s b hi hm =>
    have hs : (s.scanBit b).withMoves ms = (s.withMoves ms).scanBit b := by
      simp only [State.scanBit]
      have : (s.withMoves ms).eventReady b = s.eventReady b := rfl
      rw [this]
      cases s.eventReady b <;> rfl
    rw [hs]
    exact .scan _ b hi hm
  | tickEntry s hi hie hp => exact .tickEntry (s.withMoves ms) hi hie hp
  | byteComplete s t hi hie hp =>
    rw [← State.byteComplete_withMoves]
    exact .byteComplete _ t hi hie (by cases t <;> exact hp)
  | tickScan s i hi =>
    have hs : (s.tickScan i).withMoves ms = (s.withMoves ms).tickScan i := by
      simp only [State.tickScan, State.tickSlot]
      have h1 : (s.withMoves ms).counts i = s.counts i := rfl
      have h2 : (s.withMoves ms).slot i = s.slot i := rfl
      rw [h1, h2]
      by_cases hn : i < s.cfg.nTimers
      · rw [if_pos hn, if_pos hn]
        cases s.counts i
        · rfl
        · cases (s.slot i).fires <;> rfl
      · rw [if_neg hn, if_neg hn]; rfl
    rw [hs]
    exact .tickScan _ i hi
  | tick s hd => exact .tick (s.withMoves ms) hd
  | bytedone s t v hd hi =>
    have hb : ∀ f : Transport → Transport, ∀ e : TraceEntry,
        ((s.modXport t f).emit e).withMoves ms = ((s.withMoves ms).modXport t f).emit e := by
      intro f e; cases t <;> rfl
    rw [hb]
    exact .bytedone _ t v hd (by cases t <;> exact hi)
  | externalWrite s a v => exact .externalWrite (s.withMoves ms) a v
  | externalReset s launch => exact .externalReset (s.withMoves ms) launch

/-- Following no move. -/
theorem State.follow_nil (s : State) : s.follow [] = .next { s with moves := [] } := rfl

/-- Following a schedule takes its first move and goes on from there. -/
theorem State.follow_cons {s s' : State} {m : Move} (hc : s.cfg.wf = true) (h : s.take m = .next s')
    (ms : List Move) : s.follow (m :: ms) = s'.follow ms := by
  have h0 := State.take_withMoves ms h
  have h1 : step (s.withMoves (m :: ms)) = .next (s'.withMoves ms) :=
    (step_eq (s := s.withMoves (m :: ms)) hc rfl).trans h0
  unfold State.follow
  simp only [List.length_cons, Host.Core.run]
  rw [show Sys2Proof.core.step { s with moves := m :: ms } = .next { s' with moves := ms } from h1]

end Sys2Proof.Machine
end

