-- ==== Sys2Proof/Tests/Slice0.lean ====
section
/-! SUPPORT. Tests. Every expected value is the spec's: 30_encoding R115 and the vectors of 95_test_vectors, named in each
test (V-R2 and so on); and one witness for the hypotheses of each statement of Certificates/Slice0/Obligations.lean. -/

namespace Sys2Proof.Tests

open Sys2Proof.Machine

/-! ## Helpers -/

/-- The next state of an answer. -/
def after : Answer → Option State
  | .next s => some s
  | .fault _ => none
  | .refused _ => none

/-- The refusal of an answer. -/
def refusal : Answer → Option Refusal
  | .next _ => none
  | .fault _ => none
  | .refused r => some r

/-- In Handler(3) with interrupts enabled (95_test_vectors section 0). -/
def running : State := { State.reset with main := .handler 3, ie := true }

/-- Slot 0 with identity 5 and callback 0, in Handler(3) (95_test_vectors 2.3). -/
def oneSlot (run : Bool) (elapsed remaining : Half) : State :=
  let w : Slot := { reg := true, id := 5#8, cb := 0#8, run := run, elapsed := elapsed, remaining := remaining }
  { running with slots := w :: List.replicate 3 Slot.blank, nreg := 1 }

/-- The counters of slot 0. -/
def slot0 (s : State) : Bool × Half × Half := ((s.slot 0).run, (s.slot 0).elapsed, (s.slot 0).remaining)

/-- The pool full, with ids 1, 2, 3, 4 (V-R3). -/
def fullPool : State :=
  { running with
    slots := [1#8, 2#8, 3#8, 4#8].map fun i =>
      { reg := true, id := i, cb := 0#8, run := false, elapsed := 0#16, remaining := 0#16 }
    nreg := 4 }

/-- The payload bytes of a row of capacity 8. -/
def bytes (bs : List Byte) : List Byte := bs ++ List.replicate (8 - bs.length) 0x00#8

/-- The destinations of a row of capacity 8. -/
def addrs (ds : List Addr) : List Addr := ds ++ List.replicate (8 - ds.length) 0x0000#16

/-- A row of capacity 8. -/
def row (bs : List Byte) (ds : List Addr) : Row :=
  { txLen := BitVec.ofNat 8 bs.length, rxLen := BitVec.ofNat 8 ds.length, data := bytes bs, dest := addrs ds }

/-- An empty row of capacity 8. -/
def noRow : Row := Row.blank 8

/-- The row of V-B1. -/
def rowB1 : Row := row [0xA5#8, 0x5A#8, 0x01#8] [0x0100#16, 0x0101#16]

/-- At Scan(5), interrupts enabled, A with this instance state (95_test_vectors 2.8). -/
def scanning (x : Transport) : State := { State.reset with main := .scan 5, ie := true, busA := x }

/-- A Sending rowB1 with its interrupt pending (V-B1). -/
def sendingA : Transport :=
  { phase := .sending, wr := 1, rd := 0, txIdx := 1, rxIdx := 0, rows := [rowB1, noRow], infl := none, bcPend := true
    rxData := 0x11#8 }

/-- A Receiving the last byte of rowB1 with its interrupt pending (V-B4). -/
def receivingA : Transport :=
  { sendingA with phase := .receiving, txIdx := 3, rxIdx := 1, rxData := 0x55#8 }

/-- The step that takes this move next. -/
def takes (s : State) (m : Move) : Option State := after (step { s with moves := [m] })

/-! ## Decoding (30_encoding; V-E vectors) -/

/-- One word of each family written out bit by bit from 30_encoding R102, R103. -/
theorem test_words_bit_by_bit :
    decodeOp ⟨0b00000001000001010000000000000000#32, []⟩ = .ok (.register 5#8 0#8)
    ∧ decodeOp ⟨0b00000010000010010001001000110100#32, []⟩ = .ok (.start 9#8 0x1234#16)
    ∧ decodeOp ⟨0b00000011000001010000000000000000#32, []⟩ = .ok (.stop 5#8)
    ∧ decodeOp ⟨0b00000100000001010000000000000000#32, []⟩ = .ok (.elapsed 5#8)
    ∧ decodeOp ⟨0b00010000000000000000000000000000#32, [0b1100#32]⟩ = .ok (.post 0xC#32)
    ∧ decodeOp ⟨0b00100000000000010000000000000001#32, [0x0120#32]⟩ = .ok (.enq .b [] [0x0120#16])
    ∧ decodeOp ⟨0b00110000000000000000000000000000#32, []⟩ = .ok .ret
    ∧ decodeOp ⟨0b00110001000000000000000000000000#32, []⟩ = .ok .csenter
    ∧ decodeOp ⟨0b00110010000000000000000000000000#32, []⟩ = .ok (.csexit false)
    ∧ decodeOp ⟨0b01000000000000000000000000000010#32, []⟩ = .ok (.rdmetric 2#2)
    ∧ decodeEvent 0b11100000000000000000000000000000#32 = .ok .tick
    ∧ decodeEvent 0b11100001000000000000000000010001#32 = .ok (.bytedone .a 0x11#8) := by decide

/-- V-E14, V-E15: four payload bytes a word. -/
theorem test_enq_packing :
    decodeOp ⟨0x20000400#32, [0x04030201#32]⟩ = .ok (.enq .a [1#8, 2#8, 3#8, 4#8] [])
    ∧ decodeOp ⟨0x20000500#32, [0x04030201#32, 0x00000005#32]⟩ = .ok (.enq .a [1#8, 2#8, 3#8, 4#8, 5#8] []) := by
  decide

/-- V-E2, V-E3, V-E4, V-E6, V-E9, V-E12, V-E13. -/
theorem test_illegal_words :
    decodeOp ⟨0x01050100#32, []⟩ = .error .reservedBits
    ∧ decodeOp ⟨0x03050001#32, []⟩ = .error .reservedBits
    ∧ decodeOp ⟨0x10000000#32, []⟩ = .error .operandCount
    ∧ decodeOp ⟨0x10000001#32, [4#32]⟩ = .error .reservedBits
    ∧ decodeOp ⟨0x20020000#32, []⟩ = .error .reservedBits
    ∧ decodeOp ⟨0x00000000#32, []⟩ = .error .reservedOpcode
    ∧ decodeOp ⟨0xFF000000#32, []⟩ = .error .reservedOpcode
    ∧ decodeOp ⟨0x32000002#32, []⟩ = .error .reservedBits
    ∧ decodeOp ⟨0x40000004#32, []⟩ = .error .reservedBits
    ∧ decodeOp ⟨0x30000001#32, []⟩ = .error .reservedBits := by decide

/-- V-E7, V-E8: a byte lane beyond x, and a destination word with [31:16] set; V-E11: an event opcode. -/
theorem test_illegal_operands :
    decodeOp ⟨0x20000302#32, [0x01015AA5#32, 0x0100#32, 0x0101#32]⟩ = .error .payloadLanes
    ∧ decodeOp ⟨0x20000302#32, [0x00015AA5#32, 0x00010100#32, 0x0101#32]⟩ = .error .destinationHigh
    ∧ decodeOp ⟨0xE1000011#32, []⟩ = .error .eventOpcode
    ∧ decodeEvent 0xE1020011#32 = .error .notAnEvent := by decide

/-- Every row of spec/opcode_table.json, by its match word, is decoded as its instruction. -/
theorem test_table_rows :
    decodeTableWord 32 0x01000000 = some (.register 0#8 0#8)
    ∧ decodeTableWord 32 0x02000000 = some (.start 0#8 0#16)
    ∧ decodeTableWord 32 0x03000000 = some (.stop 0#8)
    ∧ decodeTableWord 32 0x04000000 = some (.elapsed 0#8)
    ∧ decodeTableWord 32 0x10000000 = some (.post 0#32)
    ∧ decodeTableWord 32 0x20000000 = some (.enq .a [] [])
    ∧ decodeTableWord 32 0x30000000 = some .ret
    ∧ decodeTableWord 32 0x31000000 = some .csenter
    ∧ decodeTableWord 32 0x32000000 = some (.csexit false)
    ∧ decodeTableWord 32 0x40000000 = some (.rdmetric 0#2)
    ∧ decodeTableWord 32 0xE0000000 = some .tick
    ∧ decodeTableWord 32 0xE1000000 = some (.bytedone .a 0#8) := by decide

/-- The operand words of zeros, and the second word's place. -/
theorem test_table_operands :
    decodeTableWord 32 0x20010301 = some (.enq .b [0#8, 0#8, 0#8] [0#16])
    ∧ decodeTableWord 64 0x0000000410000000 = some (.post 4#32)
    ∧ decodeTableWord 32 0x00000000 = none := by decide

/-- `withFetchWord` presents the instruction to the very next step. -/
theorem test_fetch_runs_operation :
    after (step (State.reset.withFetchWord 32 0x02091234)) = after (exec (.start 9#8 0x1234#16) State.reset)
    ∧ after (step (State.reset.withFetchWord 32 0x30000000)) = after (exec .ret State.reset)
    ∧ after (step (State.reset.withFetchWord 32 0xE0000000)) = after (exec .tick State.reset) := by decide

/-- `withFetchWord` of `BYTEDONE` puts a byte in flight for it. -/
theorem test_fetch_runs_bytedone :
    (after (step (State.reset.withFetchWord 32 0xE1010042))).map (·.trace) = some [.rx .b 0x42#8] := by decide

/-! ## Well-formedness: each check refuses an ill-formed term -/

theorem enq_wf (t : Bus) (p : List Byte) (d : List Addr) :
    (Instr.enq t p d).wf = (decide (p.length ≤ 255) && decide (d.length ≤ 255)) := rfl

theorem test_wf_refuses_long_payload : (Instr.enq .a (List.replicate 256 0#8) []).wf = false := by
  rw [enq_wf, List.length_replicate]
  rfl

theorem test_wf_refuses_many_destinations : (Instr.enq .b [] (List.replicate 256 0#16)).wf = false := by
  rw [enq_wf, List.length_replicate]
  rfl

/-! ## Instructions (95_test_vectors section 2) -/

/-- V-R2: the identity is already registered. -/
theorem test_register_duplicate :
    (after (exec (.register 5#8 2#8) (oneSlot false 0#16 0#16))).map (fun s => (s.delivered, s.met.config, s.slots.length))
      = some (some 0x03000000#32, 1#16, 4) := by decide

/-- V-R4: the pool is full and the identity registered; the identity check comes first. -/
theorem test_register_full_and_duplicate :
    (after (exec (.register 2#8 0#8) fullPool)).map (fun s => (s.delivered, s.met.timerFull, s.met.config))
      = some (some 0x03000000#32, 0#16, 1#16) := by decide

/-- V-S3: a restart. -/
theorem test_start_restarts :
    (after (exec (.start 5#8 10#16) (oneSlot true 2#16 1#16))).map (fun s => (s.delivered, slot0 s))
      = some (some 0x00000000#32, true, 0#16, 10#16) := by decide

/-- V-L6: an unregistered slot's reset id 0x00 is not found. -/
theorem test_start_unregistered :
    (after (exec (.start 0#8 1#16) running)).map (fun s => (s.delivered, slot0 s))
      = some (some 0x02000000#32, false, 0#16, 0#16) := by decide

/-- V-T1: the counters are stale. -/
theorem test_stop_leaves_counters :
    (after (exec (.stop 5#8) (oneSlot true 2#16 1#16))).map (fun s => (s.delivered, slot0 s))
      = some (some 0x00000000#32, false, 2#16, 1#16) := by decide

/-- V-T2: an unknown identity. -/
theorem test_stop_unknown :
    (after (exec (.stop 7#8) (oneSlot true 2#16 1#16))).map (fun s => (s.delivered, slot0 s))
      = some (some 0x02000000#32, true, 2#16, 1#16) := by decide

/-- V-L3: the stale count of a stopped timer. -/
theorem test_elapsed_stale :
    (after (exec (.elapsed 5#8) (oneSlot false 2#16 1#16))).map (·.delivered) = some (some 0x00000002#32) := by decide

/-- V-L5: no timer. -/
theorem test_elapsed_unknown :
    (after (exec (.elapsed 5#8) running)).map (·.delivered) = some (some 0x02000000#32) := by decide

/-- V-P1. -/
theorem test_post_sets_bits :
    (after (exec (.post 0xC#32) { running with events := 1#32 })).map (fun s => (s.delivered, s.events))
      = some (some 0x00000000#32, 0xD#32) := by decide

/-- V-P5: no bit of an unmapped mask is set; there is no result. -/
theorem test_post_unmapped :
    (after (exec (.post 0x80000004#32) { running with events := 4#32 })).map
        (fun s => (s.delivered, s.events, s.sr 5, s.trace))
      = some (none, 4#32, some 1#32, [.fault (.unmappedEvent 0x80000004#32)]) := by decide

/-- V-Q1. -/
theorem test_enq_starts_idle_instance :
    (after (exec (.enq .a [0xA5#8, 0x5A#8, 0x01#8] [0x0100#16, 0x0101#16]) running)).map
        (fun s => (s.busA, s.trace))
      = some ({ sendingA with infl := some 0xA5#8, bcPend := false, rxData := 0x00#8 },
          [.wire .a 0xA5#8, .result .enq .ok 0#16]) := by decide

/-- V-Q5: a zero-length command completes at once. -/
theorem test_enq_zero_length :
    (after (exec (.enq .b [] []) running)).map (fun s => (s.busB, s.events, s.trace))
      = some ({ Transport.blank Config.tc.busB with wr := 1, rd := 1 }, 2#32, [.result .enq .ok 0#16]) := by decide

/-- V-X3: a handler returns masked. -/
theorem test_ret_left_masked :
    (after (exec .ret { running with ie := false })).map (fun s => (s.main, s.sr 5, s.trace))
      = some (.handler 3, some 4#32, [.fault (.leftMasked 3)]) := by decide

/-- V-K15: return from a callback. -/
theorem test_ret_callback :
    (after (exec .ret { running with isr := .callback 0, ie := false })).map (fun s => (s.isr, s.ie, s.main))
      = some (.tick 1, false, .handler 3) := by decide

/-- V-X4. -/
theorem test_csenter :
    (after (exec .csenter running)).map (fun s => (s.delivered, s.ie)) = some (some 0x00000001#32, false) := by decide

/-- V-X8: `CSEXIT 1` in a callback. -/
theorem test_csexit_wrong_context :
    (after (exec (.csexit true) { running with isr := .callback 0, ie := false })).map (fun s => (s.delivered, s.ie))
      = some (some 0x06000000#32, false) := by decide

/-- V-X7. -/
theorem test_csexit_masks :
    (after (exec (.csexit false) running)).map (fun s => (s.delivered, s.ie))
      = some (some 0x00000000#32, false) := by decide

/-- V-X12. -/
theorem test_rdmetric :
    (after (exec (.rdmetric 0#2) { running with met := ⟨2#16, 0#16, 0#16, 1#16⟩ })).map (·.delivered)
        = some (some 0x00000002#32)
    ∧ (after (exec (.rdmetric 3#2) { running with met := ⟨2#16, 0#16, 0#16, 1#16⟩ })).map (·.delivered)
        = some (some 0x00000001#32) := by decide

/-- V-K1, V-K2. -/
theorem test_tick :
    (after (exec .tick running)).map (·.tickPend) = some true
    ∧ after (exec .tick { running with tickPend := true }) = some { running with tickPend := true } := by decide

/-- V-B0. -/
theorem test_bytedone :
    (after (exec (.bytedone .a 0x11#8) (scanning { sendingA with infl := some 0xA5#8, bcPend := false }))).map
        (fun s => (s.busA, s.trace))
      = some ({ sendingA with infl := none }, [.rx .a 0x11#8]) := by decide

/-- V-B0': with no byte in flight the peripheral has no step. -/
theorem test_bytedone_nothing_in_flight :
    refusal (exec (.bytedone .a 0x11#8) running) = some .nothingInFlight
    ∧ refusal (step { running with moves := [.event 0xE1000011#32] }) = some .notEnabled := by decide

/-! ## The sequencers (V-D, V-K and V-B vectors) -/

/-- V-D1. -/
theorem test_scan_dispatches :
    (takes { State.reset with main := .scan 2, ie := true, events := 0xC#32 } .dispatcher).map
        (fun s => (s.events, s.main, s.trace))
      = some (8#32, .handler 2, [.dispatch 2 2#8]) := by decide

/-- V-D3, V-D5. -/
theorem test_scan_wraps_and_waits :
    (takes { State.reset with main := .scan 31, ie := true } .dispatcher).map (·.main) = some (.scan 0)
    ∧ takes { State.reset with main := .scan 2, isr := .tick 0 } .dispatcher = none := by decide

/-- V-K3, V-K4. -/
theorem test_tick_entry :
    (takes { scanning sendingA with tickPend := true } (.interrupt .tick)).map
        (fun s => (s.tickPend, s.ie, s.isr, s.main)) = some (false, false, .tick 0, .scan 5)
    ∧ takes { State.reset with tickPend := true } (.interrupt .tick) = none := by decide

/-- V-K7, V-K8: an expiring slot is deactivated and its callback invoked; duration 0 fires at the first tick. -/
theorem test_slot_expires :
    (takes { oneSlot true 2#16 1#16 with isr := .tick 0, ie := false } .tickScan).map
        (fun s => (slot0 s, s.isr, s.trace)) = some ((false, 3#16, 0#16), .callback 0, [.callback 0#8 5#8])
    ∧ (takes { oneSlot true 0#16 0#16 with isr := .tick 0, ie := false } .tickScan).map slot0
        = some (false, 1#16, 0#16) := by decide

/-- V-K12, V-K14. -/
theorem test_slot_counts_and_final :
    (takes { oneSlot true 0#16 0xFFFF#16 with isr := .tick 0, ie := false } .tickScan).map (fun s => (slot0 s, s.isr))
        = some ((true, 1#16, 0xFFFE#16), .tick 1)
    ∧ (takes { State.reset with main := .scan 5, isr := .tick 4, cmp := 0xFE70#16 } .tickScan).map
        (fun s => (s.cmp, s.isr, s.ie)) = some (0x0258#16, .none, true) := by decide

/-- V-B1, V-B2. -/
theorem test_sending :
    (takes (scanning sendingA) (.interrupt (.bc .a))).map (fun s => (s.busA.txIdx, s.busA.infl, s.ie, s.trace))
        = some (2, some 0x5A#8, true, [.wire .a 0x5A#8])
    ∧ (takes (scanning { sendingA with txIdx := 3 }) (.interrupt (.bc .a))).map
        (fun s => (s.busA.phase, s.busA.rxIdx, s.busA.infl)) = some (.receiving, 0, some 0x00#8) := by decide

/-- V-B4: the last received byte retires the row; V-B10: a zero-length row behind it is retired too. -/
theorem test_receiving_retires :
    (takes (scanning receivingA) (.interrupt (.bc .a))).map
        (fun s => (s.readByte 0x0101, s.busA.rd, s.busA.phase, s.events, s.trace))
        = some (some 0x55#8, 1, .idle, 1#32, [.mem 0x0101#16 0x55#8])
    ∧ (takes (scanning { receivingA with rows := [rowB1, row [] []], wr := 0 }) (.interrupt (.bc .a))).map
        (fun s => (s.busA.rd, s.busA.count, s.busA.phase, s.events)) = some (0, 0, .idle, 1#32) := by decide

/-- V-B5: the next row starts in the same step. -/
theorem test_receiving_starts_next :
    (takes (scanning { receivingA with rows := [rowB1, row [0x77#8] []], wr := 0 }) (.interrupt (.bc .a))).map
        (fun s => (s.busA.phase, s.busA.txIdx, s.busA.infl, s.trace))
      = some (.sending, 1, some 0x77#8, [.mem 0x0101#16 0x55#8, .wire .a 0x77#8]) := by decide

/-- V-B7: a destination that is not valid. -/
theorem test_bad_destination :
    (takes (scanning { receivingA with rows := [row [] [0x0200#16], noRow], txIdx := 0, rxIdx := 0, rxData := 0x99#8 })
        (.interrupt (.bc .a))).map
        (fun s => (s.sr 5, s.busA.bcPend, s.ie, s.busA.rxIdx, s.readByte 0x0200))
      = some (some 2#32, false, false, 0, none) := by decide

/-- V-E10: the event opcode on the operation port changes only the trace. -/
theorem test_illegal_operation :
    takes running (.software ⟨0xE0000000#32, []⟩)
      = some { running with trace := [.result .illegal .illegalOp 0#16] } := by decide

/-! ## Assembler (30_encoding R115, R116) -/

/-- Worked encodings of R115. -/
theorem test_assembler :
    Assembler.line "REGISTER 7, NONE" = some (some (.register 7#8 0xFF#8))
    ∧ Assembler.line "START    9, 0x1234 ; a comment" = some (some (.start 9#8 0x1234#16))
    ∧ Assembler.line "ENQ.A [0xA5, 0x5A, 0x01], [0x0100, 0x0101]"
        = some (some (.enq .a [0xA5#8, 0x5A#8, 0x01#8] [0x0100#16, 0x0101#16]))
    ∧ Assembler.line "RDMETRIC ENQ_FULL_B" = some (some (.rdmetric 3#2)) := by decide

/-- The pseudo-instructions of R116. -/
theorem test_pseudo_instructions :
    Assembler.line "POSTBIT 2" = some (some (.post 4#32))
    ∧ Assembler.line "SEND.B [1]" = some (some (.enq .b [1#8] []))
    ∧ Assembler.line "RECV.A [0x0120]" = some (some (.enq .a [] [0x0120#16]))
    ∧ Assembler.line "RESTART 5, 2" = some (some (.start 5#8 2#16)) := by decide

/-! ## States that meet the invariant -/

/-- The contexts' invariant as a Bool. -/
def contextOk (s : State) : Bool :=
  (decide (s.isr = .none) || !s.ie)
  && (match s.isr with
    | .tick i => decide (i ≤ s.cfg.nTimers)
    | .callback i => decide (i < s.nreg) && decide ((s.slot i).cb ≠ noCallback)
    | .none => true)
  && decide (s.events &&& ~~~s.cfg.definedMask = 0#32)
  && (match s.main with
    | .handler b => s.cfg.definedMask.getLsbD b.val
    | .scan _ => decide (s.isr ≠ .none) || s.fault.any || s.ie
    | .init => true)

theorem contextInv_of_ok {s : State} (h : contextOk s = true) : s.contextInv := by
  simp only [contextOk, Bool.and_eq_true] at h
  obtain ⟨⟨⟨h1, h2⟩, h3⟩, h4⟩ := h
  refine ⟨?_, ?_, ?_, by simpa using h3, ?_, ?_⟩
  · intro hi
    simpa [hi] using h1
  · intro i hi
    simpa [hi] using h2
  · intro i hi
    simpa [hi] using h2
  · intro b hm
    simpa [hm] using h4
  · intro b hm hi hf
    simpa [hm, hi, hf] using h4

/-- A state meets the invariant when these checks pass. -/
theorem inv_of {s : State} (hc : s.cfg.wf = true) (hp : s.poolInv) (ha : s.busA.inv s.cfg.busA)
    (hb : s.busB.inv s.cfg.busB) (hu : s.busA.busy ∧ s.busB.busy) (hx : contextOk s = true)
    (hm : Memory.wf s.dm = true) : s.Inv :=
  ⟨hc, hp, ha, hb, fun _ => hu, contextInv_of_ok hx, hm⟩

/-- The reset state meets the invariant. -/
theorem reset_inv : State.reset.Inv :=
  inv_of (by decide) (by decide) (by decide) (by decide) (by decide) (by decide) (by decide)

theorem running_inv : running.Inv :=
  inv_of (by decide) (by decide) (by decide) (by decide) (by decide) (by decide) (by decide)

theorem sendingA_inv : (scanning sendingA).Inv :=
  inv_of (by decide) (by decide) (by decide) (by decide) (by decide) (by decide) (by decide)

theorem receivingA_inv : (scanning receivingA).Inv :=
  inv_of (by decide) (by decide) (by decide) (by decide) (by decide) (by decide) (by decide)

theorem oneSlot_inv : (oneSlot true 0#16 2#16).Inv :=
  inv_of (by decide) (by decide) (by decide) (by decide) (by decide) (by decide) (by decide)

/-- The tick ISR at slot 0, which is about to expire, over a suspended drain scan. -/
def inTick (s : State) : State := { s with main := .scan 5, isr := .tick 0, ie := false }

theorem inTick_inv : (inTick (oneSlot true 2#16 1#16)).Inv :=
  inv_of (by decide) (by decide) (by decide) (by decide) (by decide) (by decide) (by decide)

/-! ## Witnesses: for each statement, states and operands that meet its hypotheses, at the edges of their ranges -/

/-- The longest well-formed command. -/
theorem wit_DecodeOfEncodeIsTheInstruction :
    (Instr.enq .b (List.replicate 255 0xFF#8) (List.replicate 255 0xFFFF#16)).wf = true := by
  rw [enq_wf, List.length_replicate, List.length_replicate]
  decide

theorem wit_DecodedPresentationIsItsEncoding :
    decodeOp ⟨0x20010302#32, [0x00FF0201#32, 0x000001FF#32, 0x00000000#32]⟩ =
      .ok (.enq .b [1#8, 2#8, 0xFF#8] [0x01FF#16, 0x0000#16]) := by decide

/-- A reserved opcode, and an event opcode. -/
theorem wit_UnlistedOpcodesAreIllegal :
    opcodeOf 0xE1000011#32 = 0xE1#8
    ∧ ∀ o ∈ [0x00#8, 0x33#8, 0xE1#8], o ∉ [0x01#8, 0x02#8, 0x03#8, 0x04#8, 0x10#8, 0x20#8, 0x30#8, 0x31#8, 0x32#8, 0x40#8] :=
  ⟨by decide, by simp⟩

theorem wit_StreamReaderTakesOneOperation :
    (Instr.enq .a [] []).wf = true ∧ (Instr.enq .a [] []).isEvent = false := ⟨rfl, rfl⟩

/-- Software may issue an operation in Handler(3), in Init and in a callback. -/
theorem wit_softwareRuns :
    running.softwareRuns ∧ State.reset.softwareRuns ∧ { running with isr := .callback 0 }.softwareRuns :=
  ⟨.inr ⟨rfl, .inr ⟨3, rfl⟩⟩, .inr ⟨rfl, .inl rfl⟩, .inl ⟨0, rfl⟩⟩

theorem wit_StepIssuesTheDecodedOperation :
    let s : State := { running with moves := [.software ⟨0x31000000#32, []⟩] }
    s.willTake (.software ⟨0x31000000#32, []⟩) [] ∧ s.program = none ∧ s.softwareRuns
    ∧ decodeOp ⟨0x31000000#32, []⟩ = .ok .csenter :=
  ⟨by decide, rfl, wit_softwareRuns.1, by decide⟩

theorem wit_StepRunsTheEventWord :
    let s : State := { scanning { sendingA with infl := some 0xA5#8, bcPend := false } with
      moves := [.event 0xE1000011#32] }
    s.willTake (.event 0xE1000011#32) [] ∧ decodeEvent 0xE1000011#32 = .ok (.bytedone .a 0x11#8)
    ∧ (s.xport .a).infl ≠ none := by decide

/-- A program whose every routine is `CSENTER`, `RET`, with a callback 0. -/
def aProgram : Program :=
  let r : Routine := [encode .csenter, encode .ret]
  { init := r, handlers := [(0#8, r), (1#8, r), (2#8, r), (3#8, r)], callbacks := [(0#8, r)] }

/-- In each of the three contexts. -/
theorem wit_StepRunsTheRoutinesNextOperation :
    aProgram.wf Config.tc = true
    ∧ (let s : State := { inTick (oneSlot false 3#16 0#16) with
        isr := .callback 0, program := some aProgram, moves := [.routine] }
      s.willTake .routine [] ∧ aProgram.callbacks.lookup (s.slot 0).cb = some aProgram.init
      ∧ aProgram.init[s.cbPos]? = some (encode .csenter))
    ∧ (let s : State := { State.reset with program := some aProgram, mainPos := 1, moves := [.routine] }
      s.willTake .routine [] ∧ s.isr = .none ∧ s.main = .init ∧ aProgram.init[s.mainPos]? = some (encode .ret))
    ∧ (let s : State := { running with program := some aProgram, mainPos := 1, moves := [.routine] }
      s.willTake .routine [] ∧ s.isr = .none ∧ s.main = .handler 3
      ∧ aProgram.handlers.lookup (s.cfg.handler 3) = some aProgram.init
      ∧ aProgram.init[s.mainPos]? = some (encode .ret))
    ∧ decodeOp (encode .csenter) = .ok .csenter ∧ decodeOp (encode .ret) = .ok .ret := by decide

theorem wit_AgentMovesExactlyWhenEnabled : State.reset.cfg.wf = true ∧ State.reset.program = none := by decide

theorem wit_FaultedBlockHasNoStep :
    let s : State := { running with fault := ⟨false, false, true⟩, moves := [.dispatcher] }
    s.cfg.wf = true ∧ s.moves = [.dispatcher] ∧ s.fault ≠ FaultSet.empty := by decide

/-- A step that is no reset, for the statements about every step: a `TICK`. -/
theorem wit_everyStep :
    ∃ s', step { State.reset with moves := [.event 0xE0000000#32] } = .next s' ∧ s'.tickPend = true := ⟨_, rfl, rfl⟩

/-- An answer that has a next state is one. -/
theorem next_of_after {a : Answer} (h : (after a).isSome = true) : ∃ s, a = .next s := by
  cases a with
  | next s => exact ⟨s, rfl⟩
  | fault r => cases h
  | refused r => cases h

theorem wit_ConfigurationIsFixed : ∃ s s', step s = .next s' := ⟨_, _, wit_everyStep.choose_spec.1⟩

theorem wit_TraceIsAppendedAndNeverRead : ∃ s s', step s = .next s' ∧ s.moves = [.event 0xE0000000#32] :=
  ⟨_, _, wit_everyStep.choose_spec.1, rfl⟩

/-- A step that raises a fault. -/
theorem wit_OneStepRaisesAtMostOneFault :
    (takes running (.software ⟨0x10000000#32, [0x10#32]⟩)).map (·.fault) = some ⟨true, false, false⟩ := by decide

theorem wit_ExternalResetRestoresEverything :
    let s : State := { running with fault := ⟨false, false, true⟩, moves := [.externalReset []] }
    s.cfg.wf = true ∧ s.moves = [.externalReset []] := by decide

theorem wit_ResetMeetsTheInvariant : Config.tc.wf = true := by decide

theorem wit_EveryStepKeepsTheInvariant :
    { State.reset with moves := [.event 0xE0000000#32] }.Inv
    ∧ ∃ s', step { State.reset with moves := [.event 0xE0000000#32] } = .next s' :=
  ⟨inv_of (by decide) (by decide) (by decide) (by decide) (by decide) (by decide) (by decide), _, rfl⟩

theorem wit_FindIsTheRegisteredSlot : running.Inv := running_inv

/-- Each clause: a duplicate, a full pool (the last slot assigned), a free slot. -/
theorem wit_RegisterAssignsTheNextSlot :
    fullPool.find 4#8 = some 3 ∧ (fullPool.find 9#8 = none ∧ fullPool.nreg = fullPool.cfg.nTimers)
    ∧ ((oneSlot false 0#16 0#16).find 0#8 = none
      ∧ (oneSlot false 0#16 0#16).nreg ≠ (oneSlot false 0#16 0#16).cfg.nTimers) := by decide

/-- Both clauses, for `START`, `STOP` and `ELAPSED`: the last slot of the pool, and no slot. -/
theorem wit_StartStopElapsed : fullPool.find 4#8 = some 3 ∧ fullPool.find 0#8 = none := by decide

/-- A state of configuration TC that is about to take a move. -/
theorem willTake_of {s : State} {m : Move} (hc : s.cfg = Config.tc) (hf : s.fault = FaultSet.empty)
    (hm : s.moves = [m]) : s.willTake m [] :=
  ⟨by rw [hc]; decide, hf, hm⟩

/-- About to take the slot step of slot 0, with this slot. -/
def atSlot (w : Slot) : State :=
  { inTick running with slots := w :: List.replicate 3 Slot.blank, nreg := 1, moves := [.tickScan] }

theorem wit_TickSlotStep (w : Slot) :
    (atSlot w).willTake .tickScan [] ∧ (atSlot w).isr = .tick 0 ∧ 0 < (atSlot w).cfg.nTimers ∧ 0 < (atSlot w).nreg
    ∧ (atSlot w).slot 0 = w :=
  ⟨willTake_of rfl rfl rfl, rfl, by show 0 < 4; decide, by show 0 < 1; decide, by simp [State.slot, atSlot]⟩

/-- Each clause: remaining 0 and 1 with a callback, remaining 1 without, remaining 2, and a slot that does not run. -/
theorem wit_TickSlotStep_clauses :
    ((0#16).toNat ≤ 1 ∧ (1#16).toNat ≤ 1) ∧ (0x00#8 ≠ 0xFF#8) ∧ 1 < (2#16).toNat
    ∧ ¬ (0 < (atSlot Slot.blank).nreg ∧ ((atSlot Slot.blank).slot 0).run = true) :=
  ⟨by decide, by decide, by decide, by
    rw [(wit_TickSlotStep Slot.blank).2.2.2.2]
    decide⟩

theorem wit_TickFinalStepReArmsAndReturns :
    let s : State := { inTick running with isr := .tick 4, moves := [.tickScan] }
    s.willTake .tickScan [] ∧ s.isr = .tick s.cfg.nTimers := by decide

/-- A timer started with duration 1 whose slot step is processed: one visit. -/
theorem wit_TimerFiresOnceAtItsDuration :
    (inTick (oneSlot true 0#16 1#16)).Inv ∧ (inTick (oneSlot true 0#16 1#16)).program = none
    ∧ (∃ s', (inTick (oneSlot true 0#16 1#16)).follow [.tickScan] = .next s')
    ∧ (inTick (oneSlot true 0#16 1#16)).visits 0 [.tickScan] = 1 :=
  ⟨inv_of (by decide) (by decide) (by decide) (by decide) (by decide) (by decide) (by decide), rfl,
    next_of_after (by decide), by decide⟩

theorem wit_TickIsrCountsEverySlotOnce :
    (inTick (oneSlot true 2#16 1#16)).Inv ∧ (inTick (oneSlot true 2#16 1#16)).fault = FaultSet.empty
    ∧ (inTick (oneSlot true 2#16 1#16)).program = none ∧ (inTick (oneSlot true 2#16 1#16)).isr = .tick 0 :=
  ⟨inTick_inv, rfl, rfl, rfl⟩

theorem wit_PostSetsItsBits :
    0x10#32 &&& ~~~running.cfg.definedMask ≠ 0#32 ∧ 0x8#32 &&& ~~~running.cfg.definedMask = 0#32 := by decide

/-- About to test bit b, with these events. -/
def atScan (b : Fin 32) (e : Word) : State :=
  { scanning sendingA with main := .scan b, events := e, moves := [.dispatcher] }

/-- Both clauses, at bit 3 (defined) and at bit 31 (not defined). -/
theorem wit_ScanTestsAndClearsOneBit :
    ((atScan 3 8#32).willTake .dispatcher [] ∧ (atScan 3 8#32).isr = .none
      ∧ (atScan 3 8#32).cfg.definedMask.getLsbD 3 = true ∧ (atScan 3 8#32).events.getLsbD 3 = true)
    ∧ ((atScan 31 0#32).willTake .dispatcher [] ∧ (atScan 31 0#32).cfg.definedMask.getLsbD 31 = false) :=
  ⟨⟨willTake_of rfl rfl rfl, rfl, by decide, by decide⟩, willTake_of rfl rfl rfl, by decide⟩

/-- A step that clears a bit, and one that sets a bit. -/
theorem wit_EventBitsChangeOnlyByTheirRules :
    (takes { scanning sendingA with main := .scan 3, events := 8#32 } .dispatcher).map (fun s => s.events.getLsbD 3) = some false
    ∧ (takes running (.software ⟨0x10000000#32, [8#32]⟩)).map (fun s => s.events.getLsbD 3) = some true := by decide

/-- A scan over an empty Event Set runs on. -/
theorem follow_scan (n : Nat) : ∀ b : Fin 32, ∃ c : Fin 32,
    { scanning (Transport.blank Config.tc.busA) with main := .scan b }.follow (List.replicate n .dispatcher)
      = .next { scanning (Transport.blank Config.tc.busA) with main := .scan c } := by
  induction n with
  | zero => exact fun b => ⟨b, rfl⟩
  | succ n ih =>
    intro b
    obtain ⟨c, hc⟩ := ih (b + 1)
    have hs : State.take { scanning (Transport.blank Config.tc.busA) with main := .scan b } .dispatcher
        = .next { scanning (Transport.blank Config.tc.busA) with main := .scan (b + 1) } := by
      have hr : State.eventReady { scanning (Transport.blank Config.tc.busA) with main := .scan b } b = false := by
        simp [State.eventReady, scanning, State.reset, State.resetWith]
      have := State.take_of_took (m := .dispatcher) (fun _ => rfl)
        (State.Took.scan { scanning (Transport.blank Config.tc.busA) with main := .scan b } b rfl rfl)
      rw [this, State.scanBit, hr]
      rfl
    exact ⟨c, (State.follow_cons (show Config.tc.wf = true by decide) hs _).trans hc⟩

theorem wit_DrainPassDispatchesInOrder :
    ∃ (s s' : State) (ms : List Move), s.cfg.wf = true ∧ s.main = .scan 0 ∧ (∀ m ∈ ms, m.isReset = false)
      ∧ (ms.filter (· = .dispatcher)).length = 32 ∧ s.follow ms = .next s' := by
  obtain ⟨c, hc⟩ := follow_scan 32 0
  exact ⟨_, _, _, by decide, rfl, by decide, by decide, hc⟩

theorem wit_RingCapacityIsItsRows : (scanning sendingA).Inv := sendingA_inv

/-- Each clause: one byte too many, a full ring, a busy instance, an Idle one with exactly the row's capacity. -/
theorem wit_EnqAppendsARow :
    (running.cfg.bus .a).rowCap < 9 ∧ 8 ≤ (running.cfg.bus .a).rowCap
    ∧ (let x : Transport := { sendingA with rows := [rowB1, row [0x77#8] []], wr := 0 }
      (x.row x.wr).txLen ≠ 0xFF#8)
    ∧ ((sendingA.row sendingA.wr).txLen = 0xFF#8 ∧ sendingA.phase ≠ .idle)
    ∧ (((running.xport .a).row (running.xport .a).wr).txLen = 0xFF#8 ∧ (running.xport .a).phase = .idle) := by decide

theorem wit_EnqOnAnIdleInstanceStartsTheRow :
    running.Inv ∧ (running.xport .a).phase = .idle ∧ 8 ≤ (running.cfg.bus .a).rowCap := ⟨running_inv, by decide⟩

/-- Each clause: an empty row, a payload, a reply only, a zero-length row. -/
theorem wit_StartRowFindsTheNextExchange :
    noRow.txLen = 0xFF#8 ∧ (rowB1.txLen ≠ 0xFF#8 ∧ 0 < rowB1.txLen.toNat)
    ∧ ((row [] [0x0120#16]).txLen = 0#8 ∧ 0 < (row [] [0x0120#16]).rxLen.toNat)
    ∧ ((row [] []).txLen = 0#8 ∧ (row [] []).rxLen = 0#8) := by decide

theorem wit_ByteDoneCompletesTheByteInFlight :
    ({ sendingA with infl := some 0xA5#8 } : Transport).infl ≠ none := by decide

/-- The byte-complete ISR is about to run with this instance state. -/
def ready (x : Transport) : State := { scanning x with moves := [.interrupt (.bc .a)] }

theorem ready_willTake (x : Transport) :
    (ready x).willTake (.interrupt (.bc .a)) [] ∧ (ready x).isr = .none ∧ (ready x).ie = true :=
  ⟨⟨show Config.tc.wf = true by decide, rfl, rfl⟩, rfl, rfl⟩

/-- Each clause: the first byte sent, the last byte sent with a reply, the last byte sent with none. -/
theorem wit_ByteCompleteWhileSending :
    (∀ x ∈ [sendingA, { sendingA with txIdx := 3 }, { sendingA with rows := [row [0x77#8] [], noRow] }],
      x.bcPend = true ∧ x.phase = .sending)
    ∧ 1 < rowB1.txLen.toNat ∧ (rowB1.txLen.toNat ≤ 3 ∧ 0 < rowB1.rxLen.toNat)
    ∧ ((row [0x77#8] []).txLen.toNat ≤ 1 ∧ (row [0x77#8] []).rxLen = 0#8) := by decide

/-- Each clause: the addresses beside the valid range, the first reply byte, and the last one, at the range's edges. -/
theorem wit_ByteCompleteWhileReceiving :
    (∀ x ∈ [receivingA, { receivingA with rxIdx := 0 }], x.bcPend = true ∧ x.phase = .receiving)
    ∧ (Config.tc.destOk 0x0200#16 = false ∧ Config.tc.destOk 0x00FF#16 = false)
    ∧ (Config.tc.destOk 0x0100#16 = true ∧ 0 + 1 < rowB1.rxLen.toNat)
    ∧ (Config.tc.destOk 0x01FF#16 = true ∧ rowB1.rxLen.toNat ≤ 1 + 1) := by decide

theorem wit_ByteCompleteWhileIdleHasNoEffect :
    ({ sendingA with phase := .idle } : Transport).phase = .idle
    ∧ (ready { sendingA with phase := .idle }).willTake (.interrupt (.bc .a)) [] :=
  ⟨rfl, (ready_willTake _).1⟩

theorem wit_RoundTripOfACommand :
    running.Inv ∧ running.fault = FaultSet.empty ∧ running.program = none ∧ running.isr = .none ∧ running.ie = true
    ∧ running.softwareRuns ∧ (running.xport .a).phase = .idle
    ∧ (running.cfg.destOk 0x0100#16 = true ∧ running.cfg.destOk 0x0101#16 = true) :=
  ⟨running_inv, rfl, rfl, rfl, rfl, wit_softwareRuns.1, by decide, by decide⟩

/-- An `ENQ` that is accepted, and an interrupt that retires a row. -/
theorem wit_RingIsAQueueOfCommands :
    running.Inv ∧ (takes running (.software ⟨0x20000100#32, [0x77#32]⟩)).isSome = true
    ∧ (scanning receivingA).Inv ∧ (takes (scanning receivingA) (.interrupt (.bc .a))).isSome = true :=
  ⟨running_inv, by decide, receivingA_inv, by decide⟩

theorem wit_InstancesAreIndependent :
    (takes (scanning sendingA) (.interrupt (.bc .a))).map (fun s => decide (s.xport .a ≠ sendingA)) = some true := by
  decide

/-- Both clauses. -/
theorem wit_DataMemoryChangesOnlyAtDestinations :
    (takes running (.externalWrite 0xFFFF#16 7#8)).map (·.readByte 0xFFFF) = some (some 7#8)
    ∧ running.readByte 0xFFFF = none
    ∧ (takes (scanning receivingA) (.interrupt (.bc .a))).map (·.readByte 0x0101) = some (some 0x55#8)
    ∧ (scanning receivingA).readByte 0x0101 = none := by decide

/-- Each clause. -/
theorem wit_RetLeavesItsContext :
    { running with isr := .callback 0 }.isr = .callback 0
    ∧ (State.reset.isr = .none ∧ State.reset.main = .init)
    ∧ (running.isr = .none ∧ running.main = .handler 3 ∧ running.ie = true)
    ∧ { running with ie := false }.ie = false := by decide

theorem wit_InstructionsWithoutAStepAreRefused :
    (inTick running).isr = .tick 0 ∧ (scanning sendingA).isr = .none ∧ (scanning sendingA).main = .scan 5
    ∧ ((scanning sendingA).xport .a).infl = none := by decide

theorem wit_CsexitRestoresTheEnable :
    ({ running with isr := .callback 0 }.isr ≠ .none) ∧ ¬ (running.isr ≠ .none ∧ true = true) := by decide

/-- Both clauses. -/
theorem wit_IllegalOperationOnlyReports :
    decodeOp ⟨0xE0000000#32, []⟩ = .error .eventOpcode
    ∧ (let s : State := { running with moves := [.software ⟨0xE0000000#32, []⟩] }
      s.willTake (.software ⟨0xE0000000#32, []⟩) [] ∧ s.program = none)
    ∧ (let q : Program := { aProgram with init := [⟨0xE0000000#32, []⟩, encode .ret] }
      let s : State := { State.reset with program := some q, moves := [.routine] }
      s.willTake .routine [] ∧ s.nextOp = some ⟨0xE0000000#32, []⟩) := by decide

theorem wit_EveryOperationEndsWithItsStatus :
    (Instr.post 8#32).isEvent = false ∧ Instr.post 8#32 ≠ .ret ∧ 8#32 &&& ~~~running.cfg.definedMask = 0#32
    ∧ (after (exec .ret running)).isSome = true := by decide

/-- Each metric: the refusals that count, the last one before saturation. -/
theorem wit_MetricsCountRefusals :
    (takes fullPool (.software ⟨0x01090000#32, []⟩)).map (·.met.timerFull) = some 1#16
    ∧ (takes { fullPool with met := ⟨0#16, 0xFFFE#16, 0#16, 0#16⟩ } (.software ⟨0x01040000#32, []⟩)).map (·.met.config)
        = some 0xFFFF#16
    ∧ (takes { running with busA := { sendingA with rows := [rowB1, row [0x77#8] []], wr := 0 } }
        (.software ⟨0x20000000#32, []⟩)).map (·.met.enqFullA) = some 1#16
    ∧ (takes { running with busB := { sendingA with rows := [rowB1, row [0x77#8] []], wr := 0 } }
        (.software ⟨0x20010000#32, []⟩)).map (·.met.enqFullB) = some 1#16 := by decide

theorem wit_InstructionsWriteOnlyWhatTheirRulesList :
    ∀ i ∈ [Instr.register 5#8 0#8, .start 5#8 1#16, .stop 5#8, .elapsed 5#8, .post 0x10#32, .enq .a [1#8] [0x0100#16],
        .ret, .csenter, .csexit true, .rdmetric 3#2, .tick],
      (after (exec i running)).isSome = true := by decide

/-- The narrower clauses: `START` and `STOP` of a found slot; `ENQ` on an Idle and on a busy instance, with a zero-length
row to retire; `RET` from each context; `POST` in and out of the defined mask; `BYTEDONE` with a byte in flight. -/
theorem wit_InstructionsWriteOnlyWhatTheirRulesList_clauses :
    (oneSlot true 2#16 1#16).find 5#8 = some 0
    ∧ (after (exec (.enq .a [] []) running)).isSome = true
    ∧ (after (exec (.enq .a [1#8] []) { running with busA := sendingA })).isSome = true
    ∧ (after (exec (.enq .a [1#8] [])
        { running with busA := { Transport.blank Config.tc.busA with rows := [row [] [], noRow], wr := 1 } })).isSome = true
    ∧ (after (exec .ret { running with isr := .callback 0, ie := false })).isSome = true
    ∧ (after (exec .ret State.reset)).isSome = true
    ∧ (after (exec .ret { running with ie := false })).isSome = true
    ∧ (after (exec (.post 0x4#32) running)).isSome = true
    ∧ (after (exec (.bytedone .a 0x42#8) { running with busA := { sendingA with infl := some 0#8, bcPend := false } })).isSome
        = true := by decide

theorem wit_TickSetsItsPendingFlag : { running with tickPend := true }.tickPend = true := rfl

theorem wit_TickInterruptEntry :
    let s : State := { scanning sendingA with tickPend := true, moves := [.interrupt .tick] }
    s.willTake (.interrupt .tick) [] ∧ s.isr = .none ∧ s.ie = true ∧ s.tickPend = true := by decide

/-- `IE` changes both ways. -/
theorem wit_OnlyTheListedWritersChangeTheEnable :
    (takes running (.software ⟨0x31000000#32, []⟩)).map (·.ie) = some false
    ∧ (takes State.reset (.software ⟨0x30000000#32, []⟩)).map (·.ie) = some true
    ∧ (takes { inTick running with isr := .tick 4 } .tickScan).map (·.ie) = some true := by decide

theorem wit_InterruptContextStaysMasked :
    (inTick (oneSlot true 2#16 1#16)).Inv ∧ (inTick (oneSlot true 2#16 1#16)).isr ≠ .none
    ∧ (takes (inTick (oneSlot true 2#16 1#16)) .tickScan).isSome = true := ⟨inTick_inv, by decide, by decide⟩

/-- A quiescent state. -/
theorem wit_QuiescentStateOnlyScansAndTicks :
    (scanning (Transport.blank Config.tc.busA)).Inv ∧ (scanning (Transport.blank Config.tc.busA)).Quiescent :=
  ⟨inv_of (by decide) (by decide) (by decide) (by decide) (by decide) (by decide) (by decide),
    ⟨rfl, rfl, ⟨5, rfl⟩, rfl, rfl, by decide, by decide, by decide⟩⟩

theorem wit_StateRegisterLayout : (scanning sendingA).Inv := sendingA_inv

end Sys2Proof.Tests
end

section
/-! The ring of a Transport under the moves of its cursors (10_state R48, 42_transport R192, R197): the part of
`Transport.ringInv` that speaks of rows and cursors only, and that it is kept when a row is retired or appended. -/

namespace Sys2Proof.Machine

/-- The clauses of `Transport.ringInv` on rows and cursors, which hold between `CompleteRow` and `StartRow` too, where
the phase says nothing of the count. -/
structure Transport.RingShape (c : BusConfig) (x : Transport) : Prop where
  length : x.rows.length = c.rows
  rd_lt : x.rd < c.rows
  wr_lt : x.wr < c.rows
  legal : ∀ w ∈ x.rows, w.legal c.rowCap
  wr_eq : x.wr = (x.rd + x.count) % c.rows
  occupied : ∀ k < c.rows, x.occupied ((x.rd + k) % c.rows) = decide (k < x.count)

theorem Transport.ringInv_iff (c : BusConfig) (x : Transport) :
    x.ringInv c ↔ x.RingShape c ∧ (x.phase = .idle ↔ x.count = 0) ∧
      (x.infl.isSome = true ∨ x.bcPend = true → x.phase ≠ .idle) :=
  ⟨fun ⟨h1, h2, h3, h4, h5, h6, h7, h8⟩ => ⟨⟨h1, h2, h3, h4, h5, h6⟩, h7, h8⟩,
    fun ⟨⟨h1, h2, h3, h4, h5, h6⟩, h7, h8⟩ => ⟨h1, h2, h3, h4, h5, h6, h7, h8⟩⟩

theorem Transport.RingShape.count_le_rows {c : BusConfig} {x : Transport} (h : x.RingShape c) : x.count ≤ c.rows :=
  h.length ▸ x.count_le

/-- The row in exchange is occupied when any row is (10_state R48). -/
theorem Transport.RingShape.occupied_rd {c : BusConfig} {x : Transport} (h : x.RingShape c) :
    x.occupied x.rd = decide (0 < x.count) := by
  have h0 := h.occupied 0 (Nat.zero_lt_of_lt h.rd_lt)
  rwa [Nat.add_zero, Nat.mod_eq_of_lt h.rd_lt] at h0

/-- A ring that is not full has room for one more row (42_transport R191). -/
theorem Transport.RingShape.count_lt_of_not_full {c : BusConfig} {x : Transport} (h : x.RingShape c)
    (hf : x.full = false) : x.count < c.rows := by
  refine lt_of_le_of_ne h.count_le_rows fun hc => ?_
  have hw : x.wr = x.rd := by rw [h.wr_eq, hc, Nat.add_mod_right, Nat.mod_eq_of_lt h.rd_lt]
  have hpos : 0 < x.count := hc ▸ Nat.zero_lt_of_lt h.rd_lt
  rw [Transport.full, hw, h.occupied_rd, decide_eq_true hpos] at hf
  exact absurd hf (by decide)

/-- Two offsets from the consumer cursor name different rows. -/
theorem ringOffset_inj {r a j k : Nat} (hj : j < r) (hk : k < r) (h : (a + j) % r = (a + k) % r) : j = k :=
  (Nat.ModEq.add_left_cancel' a h).eq_of_lt_of_lt hj hk

theorem ringInc_offset (r a k : Nat) : (ringInc r a + k) % r = (a + (k + 1)) % r := by
  rw [ringInc, Nat.mod_add_mod, Nat.add_assoc, Nat.add_comm 1 k]

theorem Transport.occupied_setRow_same {x : Transport} {r : Nat} (w : Row) (h : r < x.rows.length) :
    (x.setRow r w).occupied r = w.occupied := by
  rw [Transport.occupied, Transport.row_setRow_same w h]

theorem Transport.occupied_setRow_other (x : Transport) {r q : Nat} (w : Row) (h : q ≠ r) :
    (x.setRow r w).occupied q = x.occupied q := by
  rw [Transport.occupied, Transport.row_setRow_other x w h, Transport.occupied]

theorem Transport.RingShape.legal_setRow {c : BusConfig} {x : Transport} (h : x.RingShape c) (r : Nat) {w : Row}
    (hw : w.legal c.rowCap) : ∀ v ∈ (x.setRow r w).rows, v.legal c.rowCap := fun v hv =>
  (List.mem_or_eq_of_mem_set hv).elim (h.legal v) fun e => e ▸ hw

theorem Transport.RingShape.legal_row {c : BusConfig} {x : Transport} (h : x.RingShape c) {r : Nat} (hr : r < c.rows) :
    (x.row r).legal c.rowCap := by
  rw [Transport.row_eq_getElem (h.length ▸ hr)]
  exact h.legal _ (List.getElem_mem _)

/-- The transport after `CompleteRow` (42_transport R197). -/
abbrev Transport.retire (x : Transport) (c : BusConfig) : Transport :=
  { x.setRow x.rd { x.row x.rd with txLen := emptyLen } with rd := ringInc c.rows x.rd }

/-- The transport after the row write of `ENQ` (42_transport R192). -/
abbrev Transport.append (x : Transport) (c : BusConfig) (payload : List Byte) (dests : List Addr) : Transport :=
  { x.setRow x.wr ((x.row x.wr).fill payload dests) with wr := ringInc c.rows x.wr }

theorem Transport.RingShape.retire {c : BusConfig} {x : Transport} (h : x.RingShape c) (ho : x.occupied x.rd = true) :
    (x.retire c).RingShape c := by
  have hlen : x.rd < x.rows.length := h.length ▸ h.rd_lt
  have hcount : (x.retire c).count + 1 = x.count := by
    have hset := Transport.count_setRow { x.row x.rd with txLen := emptyLen } hlen
    simp only [ho, Row.occupied, ne_eq, not_true_eq_false, decide_false, if_true, Bool.false_eq_true, if_false] at hset
    exact hset
  have hpos : 0 < c.rows := Nat.zero_lt_of_lt h.rd_lt
  refine ⟨?_, Nat.mod_lt _ hpos, h.wr_lt, ?_, ?_, fun k hk => ?_⟩
  · simpa using h.length
  · obtain ⟨hd, ha, -⟩ := h.legal_row h.rd_lt
    exact h.legal_setRow x.rd ⟨hd, ha, fun he => absurd he (by simp [Row.occupied])⟩
  · show x.wr = (ringInc c.rows x.rd + (x.retire c).count) % c.rows
    rw [ringInc_offset, hcount, ← h.wr_eq]
  · show (x.setRow x.rd { x.row x.rd with txLen := emptyLen }).occupied ((ringInc c.rows x.rd + k) % c.rows) = _
    rw [ringInc_offset]
    by_cases hlast : k + 1 = c.rows
    · rw [hlast, Nat.add_mod_right, Nat.mod_eq_of_lt h.rd_lt, Transport.occupied_setRow_same _ hlen]
      have hle := h.count_le_rows
      simp [Row.occupied]
      omega
    · have hne : (x.rd + (k + 1)) % c.rows ≠ x.rd := fun he =>
        absurd (ringOffset_inj (by omega) hpos (he.trans (Nat.mod_eq_of_lt h.rd_lt).symm)) (Nat.succ_ne_zero k)
      rw [Transport.occupied_setRow_other x _ hne, h.occupied _ (by omega)]
      exact decide_eq_decide.mpr (by omega)

theorem overlay_length {α : Type} {new old : List α} (h : new.length ≤ old.length) :
    (overlay new old).length = old.length := by
  simp [overlay, h]

/-- The lengths of an accepted command fit their bytes (42_transport R192: `K_ROW[t]` is at most 254). -/
theorem Row.fill_lengths (w : Row) {payload : List Byte} {dests : List Addr} {k : Nat} (hk : k ≤ 254)
    (hl : payload.length + dests.length ≤ k) :
    (w.fill payload dests).txLen.toNat = payload.length ∧ (w.fill payload dests).rxLen.toNat = dests.length := by
  simp only [Row.fill, BitVec.toNat_ofNat]
  omega

theorem Row.fill_occupied (w : Row) {payload : List Byte} {dests : List Addr} {k : Nat} (hk : k ≤ 254)
    (hl : payload.length + dests.length ≤ k) : (w.fill payload dests).occupied = true := by
  obtain ⟨htx, -⟩ := w.fill_lengths hk hl
  rw [Row.occupied_iff]
  intro he
  rw [he] at htx
  have : emptyLen.toNat = 255 := rfl
  omega

theorem Row.legal.fill {w : Row} {payload : List Byte} {dests : List Addr} {k : Nat} (h : w.legal k) (hk : k ≤ 254)
    (hl : payload.length + dests.length ≤ k) : (w.fill payload dests).legal k := by
  obtain ⟨hd, ha, -⟩ := h
  obtain ⟨htx, hrx⟩ := w.fill_lengths hk hl
  refine ⟨?_, ?_, fun _ => by omega⟩
  · rw [← hd]; exact overlay_length (by omega)
  · rw [← ha]; exact overlay_length (by omega)

/-- Appending to a ring that is not full fills the first free row and leaves the others. -/
theorem Transport.RingShape.append {c : BusConfig} {x : Transport} {payload : List Byte} {dests : List Addr}
    (h : x.RingShape c) (hk : c.rowCap ≤ 254) (hl : payload.length + dests.length ≤ c.rowCap) (hf : x.full = false) :
    (x.append c payload dests).RingShape c ∧ (x.append c payload dests).count = x.count + 1 := by
  have hlen : x.wr < x.rows.length := h.length ▸ h.wr_lt
  have hfill := (x.row x.wr).fill_occupied hk hl
  have hroom := h.count_lt_of_not_full hf
  have hcount : (x.append c payload dests).count = x.count + 1 := by
    have hset := Transport.count_setRow ((x.row x.wr).fill payload dests) hlen
    rw [show x.occupied x.wr = false from hf, hfill] at hset
    exact hset
  refine ⟨⟨?_, h.rd_lt, Nat.mod_lt _ (Nat.zero_lt_of_lt h.rd_lt), ?_, ?_, fun k hk' => ?_⟩, hcount⟩
  · simpa using h.length
  · exact h.legal_setRow x.wr ((h.legal_row h.wr_lt).fill hk hl)
  · show ringInc c.rows x.wr = (x.rd + (x.append c payload dests).count) % c.rows
    rw [hcount, ringInc, h.wr_eq, Nat.mod_add_mod, Nat.add_assoc]
  · show (x.setRow x.wr ((x.row x.wr).fill payload dests)).occupied ((x.rd + k) % c.rows) = _
    by_cases hlast : k = x.count
    · rw [hlast, ← h.wr_eq, Transport.occupied_setRow_same _ hlen, hfill, hcount]
      simp
    · have hne : (x.rd + k) % c.rows ≠ x.wr := fun he => hlast (ringOffset_inj hk' hroom (he.trans h.wr_eq))
      rw [Transport.occupied_setRow_other x _ hne, h.occupied _ hk', hcount]
      exact decide_eq_decide.mpr (by omega)

/-- `ENQ` on a ring with a row in exchange leaves that row. -/
theorem Transport.RingShape.row_rd_append {c : BusConfig} {x : Transport} (payload : List Byte) (dests : List Addr)
    (h : x.RingShape c) (hf : x.full = false) (hpos : 0 < x.count) :
    (x.append c payload dests).row x.rd = x.row x.rd := by
  have hne : x.rd ≠ x.wr := by
    intro he
    rw [Transport.full, ← he, h.occupied_rd, decide_eq_true hpos] at hf
    exact absurd hf (by decide)
  exact Transport.row_setRow_other x _ hne

end Sys2Proof.Machine
end

section
/-! What the framing state machine makes of one transport: from a ring in shape and nothing in flight, `StartRow`,
`CompleteRow` with `StartRow`, the byte-complete ISR and `ENQ` leave the transport with its invariant, waiting for a byte
when it is not Idle (10_state R48, R55; 42_transport R205). -/

namespace Sys2Proof.Machine

/-! ## The invariant of one transport, phase by phase -/

theorem Transport.inv.shape {c : BusConfig} {x : Transport} (h : x.inv c) : x.RingShape c :=
  ((Transport.ringInv_iff c x).mp h.1).1

/-- A transport is Idle exactly when its ring is empty (10_state R48 (c)). -/
theorem Transport.inv.count_pos {c : BusConfig} {x : Transport} (h : x.inv c) (hp : x.phase ≠ .idle) : 0 < x.count :=
  Nat.pos_of_ne_zero fun hc => hp (((Transport.ringInv_iff c x).mp h.1).2.1.mpr hc)

theorem Transport.inv.occupied_rd {c : BusConfig} {x : Transport} (h : x.inv c) (hp : x.phase ≠ .idle) :
    x.occupied x.rd = true := by
  rw [h.shape.occupied_rd, decide_eq_true (h.count_pos hp)]

theorem Transport.inv.phase_ne_idle {c : BusConfig} {x : Transport} (h : x.inv c)
    (hw : x.infl.isSome = true ∨ x.bcPend = true) : x.phase ≠ .idle :=
  ((Transport.ringInv_iff c x).mp h.1).2.2 hw

/-- The byte in flight and its pending interrupt exclude each other (42_transport R195). -/
theorem Transport.inv.infl_eq_none {c : BusConfig} {x : Transport} (h : x.inv c) (hb : x.bcPend = true) :
    x.infl = none := by
  obtain ⟨-, -, -, hexcl⟩ := h.2
  cases hi : x.infl with
  | none => rfl
  | some v => rw [hexcl (by rw [hi]; rfl)] at hb; cases hb

/-- An Idle transport has nothing in flight and nothing pending (10_state R48 (d)). -/
theorem Transport.inv.atRest {c : BusConfig} {x : Transport} (h : x.inv c) (hp : x.phase = .idle) : x.atRest := by
  have hw : ¬ (x.infl.isSome = true ∨ x.bcPend = true) := fun hw => h.phase_ne_idle hw hp
  exact ⟨hp, by simpa using hw⟩

theorem Transport.inv.sending {c : BusConfig} {x : Transport} (h : x.inv c) (hp : x.phase = .sending) :
    1 ≤ x.txIdx ∧ x.txIdx ≤ (x.row x.rd).txLen.toNat ∧ x.rxIdx = 0 := by
  obtain ⟨-, -, hsend, -, -⟩ := h
  exact hsend hp

theorem Transport.inv.receiving {c : BusConfig} {x : Transport} (h : x.inv c) (hp : x.phase = .receiving) :
    x.txIdx = (x.row x.rd).txLen.toNat ∧ x.rxIdx < (x.row x.rd).rxLen.toNat := by
  obtain ⟨-, -, -, hrecv, -⟩ := h
  exact hrecv hp

theorem Transport.inv_of_idle {c : BusConfig} {x : Transport} (h : x.RingShape c) (hrest : x.atRest)
    (htx : x.txIdx = 0) (hrx : x.rxIdx = 0) (hc : x.count = 0) : x.inv c ∧ x.busy := by
  obtain ⟨hp, hi, hb⟩ := hrest
  refine ⟨⟨(Transport.ringInv_iff c x).mpr ⟨h, by simp [hp, hc], by simp [hi, hb]⟩, fun _ => ⟨htx, hrx⟩, ?_, ?_, ?_⟩,
    fun hn => absurd hp hn⟩ <;> simp [hp, hi]

/-- A transport that is not Idle and waits: its cursors decide. -/
theorem Transport.inv_of_waiting {c : BusConfig} {x : Transport} (h : x.RingShape c) (hpos : 0 < x.count)
    (hp : x.phase ≠ .idle) (hw : x.infl.isSome = true ∧ x.bcPend = false ∨ x.infl = none ∧ x.bcPend = true)
    (hs : x.phase = .sending → 1 ≤ x.txIdx ∧ x.txIdx ≤ (x.row x.rd).txLen.toNat ∧ x.rxIdx = 0)
    (hr : x.phase = .receiving → x.txIdx = (x.row x.rd).txLen.toNat ∧ x.rxIdx < (x.row x.rd).rxLen.toNat) :
    x.inv c ∧ x.busy := by
  refine ⟨⟨(Transport.ringInv_iff c x).mpr ⟨h, by simp [hp, hpos.ne'], fun _ => hp⟩, fun hi => absurd hi hp, hs, hr, ?_⟩, ?_⟩
  · intro hi
    rcases hw with ⟨-, hb⟩ | ⟨hn, -⟩
    · exact hb
    · simp [hn] at hi
  · exact fun _ => hw.imp And.left And.right

/-- `inv_of_waiting` in phase Sending, a byte in flight. -/
theorem Transport.inv_of_sending {c : BusConfig} {x : Transport} (h : x.RingShape c) (hpos : 0 < x.count)
    (hp : x.phase = .sending) (hi : x.infl.isSome = true) (hb : x.bcPend = false) (h1 : 1 ≤ x.txIdx)
    (h2 : x.txIdx ≤ (x.row x.rd).txLen.toNat) (h3 : x.rxIdx = 0) : x.inv c ∧ x.busy :=
  Transport.inv_of_waiting h hpos (by simp [hp]) (.inl ⟨hi, hb⟩) (fun _ => ⟨h1, h2, h3⟩) (by simp [hp])

/-- `inv_of_waiting` in phase Receiving, a byte in flight. -/
theorem Transport.inv_of_receiving {c : BusConfig} {x : Transport} (h : x.RingShape c) (hpos : 0 < x.count)
    (hp : x.phase = .receiving) (hi : x.infl.isSome = true) (hb : x.bcPend = false)
    (h1 : x.txIdx = (x.row x.rd).txLen.toNat) (h2 : x.rxIdx < (x.row x.rd).rxLen.toNat) : x.inv c ∧ x.busy :=
  Transport.inv_of_waiting h hpos (by simp [hp]) (.inl ⟨hi, hb⟩) (by simp [hp]) (fun _ => ⟨h1, h2⟩)

/-- The pending flag of a transport may be cleared in the invariant (60_exceptions R262). -/
theorem Transport.inv.clear_bcPend {c : BusConfig} {x : Transport} (h : x.inv c) :
    Transport.inv c { x with bcPend := false } := by
  obtain ⟨hring, hidle, hsend, hrecv, -⟩ := h
  obtain ⟨hshape, hphase, hbusy⟩ := (Transport.ringInv_iff c x).mp hring
  exact ⟨(Transport.ringInv_iff _ _).mpr ⟨{ hshape with }, hphase, fun hw => hbusy (.inl (by simpa using hw))⟩,
    hidle, hsend, hrecv, fun _ => rfl⟩

/-! ## StartRow and CompleteRow -/

/-- `StartRow` on a ring in shape with nothing in flight (42_transport R196). -/
theorem State.startRow_inv (t : Bus) (s : State) : (s.xport t).RingShape (s.cfg.bus t) → (s.xport t).infl = none →
    (s.xport t).bcPend = false →
    ((s.startRow t).xport t).inv (s.cfg.bus t) ∧ ((s.startRow t).xport t).busy := by
  refine State.startRow_induction t
    (P := fun s s' => (s.xport t).RingShape (s.cfg.bus t) → (s.xport t).infl = none → (s.xport t).bcPend = false →
      (s'.xport t).inv (s.cfg.bus t) ∧ (s'.xport t).busy) ?idle ?sending ?receiving ?again s
  case idle =>
    intro s he h hi hb
    have hfree : (s.xport t).occupied (s.xport t).rd = false := by simp [Transport.occupied, Row.occupied, he]
    have hc : (s.xport t).count = 0 := by simpa [h.occupied_rd] using hfree
    rw [State.xport_setPhase_same]
    exact Transport.inv_of_idle { h with } ⟨rfl, hi, hb⟩ rfl rfl hc
  case sending =>
    intro s hne htx h hi hb
    have ho : (s.xport t).occupied (s.xport t).rd = true := by simpa [Transport.occupied, Row.occupied_iff] using hne
    have hpos : 0 < (s.xport t).count := by simpa [h.occupied_rd] using ho
    rw [State.xport_load_same, State.xport_setPhase_same]
    exact Transport.inv_of_sending { h with } hpos rfl rfl hb le_rfl htx rfl
  case receiving =>
    intro s htx hrx h hi hb
    have ho : (s.xport t).occupied (s.xport t).rd = true := by
      simp [Transport.occupied, Row.occupied, htx, emptyLen]
    have hpos : 0 < (s.xport t).count := by simpa [h.occupied_rd] using ho
    rw [State.xport_load_same, State.xport_setPhase_same]
    exact Transport.inv_of_receiving { h with } hpos rfl rfl hb (congrArg BitVec.toNat htx).symm hrx
  case again =>
    intro s htx hrx ih h hi hb
    have ho : (s.xport t).occupied (s.xport t).rd = true := by
      simp [Transport.occupied, Row.occupied, htx, emptyLen]
    rw [State.xport_completeRow_same, State.completeRow_cfg] at ih
    exact ih (h.retire ho) hi hb

/-- `CompleteRow` and `StartRow` on a transport whose byte has completed (42_transport R200, R201). -/
theorem State.nextRow_inv {t : Bus} {s : State} (h : (s.xport t).RingShape (s.cfg.bus t))
    (ho : (s.xport t).occupied (s.xport t).rd = true) (hi : (s.xport t).infl = none)
    (hb : (s.xport t).bcPend = false) :
    ((s.nextRow t).xport t).inv (s.cfg.bus t) ∧ ((s.nextRow t).xport t).busy := by
  have hs := State.startRow_inv t (s.completeRow t)
  rw [State.xport_completeRow_same, State.completeRow_cfg] at hs
  exact hs (h.retire ho) hi hb

/-! ## The byte-complete ISR -/

theorem State.bcSending_inv {t : Bus} {s : State} (h : (s.xport t).inv (s.cfg.bus t))
    (hp : (s.xport t).phase = .sending) (hi : (s.xport t).infl = none) (hb : (s.xport t).bcPend = false) :
    ((s.bcSending t).xport t).inv (s.cfg.bus t) ∧ ((s.bcSending t).xport t).busy := by
  have hne : (s.xport t).phase ≠ .idle := by simp [hp]
  obtain ⟨-, hle, hrx⟩ := h.sending hp
  unfold State.bcSending State.currentRow
  simp only
  split
  · next hlt =>
    rw [State.xport_modXport_same, State.xport_load_same]
    exact Transport.inv_of_sending { h.shape with } (h.count_pos hne) hp rfl hb (Nat.le_add_left ..) hlt hrx
  · next hge =>
    split
    · next hpos =>
      rw [State.xport_load_same, State.xport_modXport_same]
      exact Transport.inv_of_receiving { h.shape with } (h.count_pos hne) rfl rfl hb
        (Nat.le_antisymm hle (Nat.le_of_not_lt hge)) hpos
    · exact State.nextRow_inv h.shape (h.occupied_rd hne) hi hb

theorem State.bcReceiving_inv {t : Bus} {s s' : State} (h : (s.xport t).inv (s.cfg.bus t))
    (hp : (s.xport t).phase = .receiving) (hi : (s.xport t).infl = none) (hb : (s.xport t).bcPend = false)
    (hr : s.bcReceiving t = .ok s') : (s'.xport t).inv (s.cfg.bus t) ∧ (s'.xport t).busy := by
  have hne : (s.xport t).phase ≠ .idle := by simp [hp]
  obtain ⟨htx, -⟩ := h.receiving hp
  unfold State.bcReceiving at hr
  simp only at hr
  rcases s.memWrite_cases ((s.currentRow t).destAt (s.xport t).rxIdx) (s.xport t).rxData with ⟨-, hm⟩ | ⟨-, hm⟩
  · rw [hm] at hr
    simp only at hr
    generalize hs1 : ({ s with dm := _, trace := _ } : State) = s1 at hr
    have hx : s1.xport t = s.xport t := by rw [← hs1]; cases t <;> rfl
    have hc : s1.cfg = s.cfg := by rw [← hs1]
    split at hr
    · next hlt =>
      cases hr
      rw [State.xport_load_same, State.xport_modXport_same, hx]
      exact Transport.inv_of_receiving { h.shape with } (h.count_pos hne) hp rfl hb htx hlt
    · cases hr
      have hn := @State.nextRow_inv t (s1.modXport t fun x => { x with rxIdx := (s.xport t).rxIdx + 1 })
      rw [State.xport_modXport_same, State.modXport_cfg, hx, hc] at hn
      exact hn { h.shape with } (h.occupied_rd hne) hi hb
  · rw [hm] at hr
    cases hr

end Sys2Proof.Machine
end

section
/-! The invariant of a state under the kinds of change that the steps are made of: a well-formed configuration's bounds,
a change of one transport, a change of one slot, and the event mask. -/

namespace Sys2Proof

theorem Config.bus_inRange {c : Config} (h : c.wf = true) (t : Bus) : (c.bus t).inRange = true := by
  simp only [Config.wf, Bool.and_eq_true] at h
  obtain ⟨⟨⟨⟨⟨⟨⟨-, ha⟩, hb⟩, -⟩, -⟩, -⟩, -⟩, -⟩ := h
  cases t with
  | a => exact ha
  | b => exact hb

/-- The completion bits are defined (10_state R33). -/
theorem Config.evDone_defined {c : Config} (h : c.wf = true) (t : Bus) :
    c.definedMask.getLsbD (c.bus t).evDone.val = true := by
  simp only [Config.wf, Bool.and_eq_true] at h
  obtain ⟨⟨⟨-, ha⟩, hb⟩, -⟩ := h
  cases t with
  | a => exact ha
  | b => exact hb

theorem Config.nTimers_le {c : Config} (h : c.wf = true) : c.nTimers ≤ 255 := by
  simp only [Config.wf, Bool.and_eq_true, decide_eq_true_eq] at h
  obtain ⟨⟨⟨⟨⟨⟨⟨⟨-, hn⟩, -⟩, -⟩, -⟩, -⟩, -⟩, -⟩, -⟩ := h
  exact hn

/-- The ranges of one transport (00_scope R6). -/
theorem BusConfig.inRange_iff (c : BusConfig) :
    c.inRange = true ↔ 1 ≤ c.rows ∧ c.rows ≤ 255 ∧ 1 ≤ c.rowCap ∧ c.rowCap ≤ 254 := by
  simp only [BusConfig.inRange, Bool.and_eq_true, decide_eq_true_eq, and_assoc]

namespace Machine

/-! ## Events inside the mask -/

theorem or_within_mask {e m d : Word} (he : e &&& ~~~d = 0#32) (hm : m &&& ~~~d = 0#32) : (e ||| m) &&& ~~~d = 0#32 := by
  rw [BitVec.and_comm, BitVec.and_or_distrib_left, BitVec.and_comm _ e, BitVec.and_comm _ m, he, hm, BitVec.or_self]

theorem and_within_mask {e d : Word} (m : Word) (he : e &&& ~~~d = 0#32) : (e &&& m) &&& ~~~d = 0#32 := by
  rw [BitVec.and_assoc, BitVec.and_comm m, ← BitVec.and_assoc, he, BitVec.zero_and]

theorem eventBit_within_mask {d : Word} {b : Fin 32} (h : d.getLsbD b.val = true) : eventBit b &&& ~~~d = 0#32 := by
  ext i hi
  by_cases hb : b.val = i
  · subst hb; simp_all
  · simp [eventBit, BitVec.getElem_twoPow, Ne.symm hb]

/-! ## One transport -/

theorem State.Inv.ring {s : State} (h : s.Inv) (t : Bus) : (s.xport t).inv (s.cfg.bus t) := by
  cases t with
  | a => exact h.ringA
  | b => exact h.ringB

theorem State.Inv.busyAt {s : State} (h : s.Inv) (hf : s.fault.any = false) (t : Bus) : (s.xport t).busy := by
  obtain ⟨ha, hb⟩ := h.busy hf
  cases t with
  | a => exact ha
  | b => exact hb

theorem State.emit_kept (t : Bus) (s : State) (e : TraceEntry) : s.KeptByTransport t (s.emit e) := by
  constructor <;> simp

/-- A change of one transport that leaves it with its invariant. -/
theorem State.Inv.of_kept {s s' : State} {t : Bus} (h : s.Inv) (k : s.KeptByTransport t s')
    (hx : (s'.xport t).inv (s.cfg.bus t) ∧ (s'.xport t).busy) : s'.Inv := by
  have hring : ∀ u, (s'.xport u).inv (s'.cfg.bus u) := fun u => by
    rw [k.cfg]
    by_cases hu : u = t
    · exact hu ▸ hx.1
    · exact k.other u hu ▸ h.ring u
  have hbusy : ∀ u, s.fault.any = false → (s'.xport u).busy := fun u hf => by
    by_cases hu : u = t
    · exact hu ▸ hx.2
    · exact k.other u hu ▸ h.busyAt hf u
  have hevents : s'.events &&& ~~~s.cfg.definedMask = 0#32 := by
    obtain ⟨-, -, -, hev, -, -⟩ := h.context
    rcases k.events with he | he <;> rw [he]
    · exact hev
    · exact or_within_mask hev (eventBit_within_mask (Config.evDone_defined h.config t))
  have hslot : ∀ i, s'.slot i = s.slot i := fun i => by rw [State.slot, k.slots, State.slot]
  constructor
  case config => rw [k.cfg]; exact h.config
  case pool => simpa only [State.poolInv, hslot, k.slots, k.nreg, k.cfg] using h.pool
  case ringA => exact hring .a
  case ringB => exact hring .b
  case busy => rw [k.fault]; exact fun hf => ⟨hbusy .a hf, hbusy .b hf⟩
  case context =>
    obtain ⟨hmask, htick, hcb, -, hhandler, hscan⟩ := h.context
    simp only [State.contextInv, hslot, k.isr, k.ie, k.nreg, k.cfg, k.main, k.fault]
    exact ⟨hmask, htick, hcb, hevents, hhandler, hscan⟩
  case memory => rw [k.dm]; exact h.memory

/-! ## One slot -/

/-- `find` names a registered slot (40_timer R141). -/
theorem State.find_lt_nreg {s : State} {id : Byte} {i : Nat} (h : s.find id = some i) : i < s.nreg := by
  obtain ⟨hi, -⟩ := List.findIdx?_eq_some_iff_getElem.mp h
  simp only [List.length_take] at hi
  omega

/-- `find` answers none only when no registered slot has the identity (40_timer R141). -/
theorem State.id_ne_of_find_none {s : State} {id : Byte} (h : s.find id = none) (hn : s.nreg ≤ s.slots.length) {i : Nat}
    (hi : i < s.nreg) : (s.slot i).id ≠ id := by
  have hlen : i < s.slots.length := by omega
  have hmem : s.slots[i] ∈ s.slots.take s.nreg := List.mem_take_iff_getElem.mpr ⟨i, by omega, rfl⟩
  have hid := List.findIdx?_eq_none_iff.mp h _ hmem
  simpa [State.slot, hlen] using hid

/-- Writing slot i, a registered one or the next to be registered: the first n slots are registered afterwards, no other
of them has the written identity, and the callback of a slot that was registered stays (10_state R41, R42). -/
theorem State.Inv.setSlot {s : State} (h : s.Inv) {i n : Nat} {w : Slot} (hle : s.nreg ≤ n) (hn : n ≤ s.cfg.nTimers)
    (hi : i < n) (hold : ∀ k < n, k ≠ i → k < s.nreg) (hreg : w.reg = true)
    (hid : ∀ k < s.nreg, k ≠ i → (s.slot k).id ≠ w.id) (hcb : i < s.nreg → w.cb = (s.slot i).cb)
    (hrun : w.run = true → 1 ≤ w.remaining.toNat ∨ w.remaining = 0#16 ∧ w.elapsed = 0#16) :
    State.Inv { s.setSlot i w with nreg := n } := by
  obtain ⟨hlen, -, hregs, hinj, hidle, hruns⟩ := h.pool
  obtain ⟨hmask, htick, hcall, hev, hhandler, hscan⟩ := h.context
  generalize hs' : ({ s.setSlot i w with nreg := n } : State) = s'
  have hslots : s'.slots = s.slots.set i w := by rw [← hs']; rfl
  have hsame : s'.slot i = w := by rw [← hs']; exact State.slot_setSlot_same w (by omega)
  have hother : ∀ k, k ≠ i → s'.slot k = s.slot k := by rw [← hs']; exact fun k => State.slot_setSlot_other s w
  have hpool : s'.poolInv := by
    have hcfg : s'.cfg = s.cfg := by rw [← hs']; rfl
    have hnreg : s'.nreg = n := by rw [← hs']
    rw [State.poolInv, hcfg, hnreg]
    refine ⟨by simpa [hslots] using hlen, hn, fun k hk => ?_, fun j hj k hk hjk => ?_, fun k hk => ?_, fun k hk => ?_⟩
    · by_cases e : k = i
      · rw [e, hsame, hreg, decide_eq_true hi]
      · rw [hother k e, hregs k hk]
        exact decide_eq_decide.mpr ⟨fun hk' => by omega, fun hk' => hold k hk' e⟩
    · by_cases ej : j = i <;> by_cases ek : k = i
      · rw [ej, ek]
      · rw [ej, hsame, hother k ek] at hjk; exact absurd hjk.symm (hid k (hold k hk ek) ek)
      · rw [ek, hsame, hother j ej] at hjk; exact absurd hjk (hid j (hold j hj ej) ej)
      · rw [hother j ej, hother k ek] at hjk; exact hinj j (hold j hj ej) k (hold k hk ek) hjk
    · by_cases e : k = i
      · rw [e, hsame, hreg]; exact fun hf => absurd hf (by decide)
      · rw [hother k e]; exact hidle k hk
    · by_cases e : k = i
      · rw [e, hsame]; exact hrun
      · rw [hother k e]; exact hruns k hk
  have hcallback : ∀ k, s.isr = .callback k → k < n ∧ (s'.slot k).cb ≠ noCallback := fun k hk => by
    obtain ⟨hk1, hk2⟩ := hcall k hk
    refine ⟨by omega, ?_⟩
    by_cases e : k = i
    · rw [e] at hk1 hk2 ⊢; rw [hsame, hcb hk1]; exact hk2
    · rw [hother k e]; exact hk2
  subst hs'
  exact { h with pool := hpool, context := ⟨hmask, htick, hcallback, hev, hhandler, hscan⟩ }

/-- A registered slot may be changed in its counters and its running flag (10_state R42). -/
theorem State.Inv.setRegistered {s : State} (h : s.Inv) {i : Nat} {w : Slot} (hi : i < s.nreg)
    (hreg : w.reg = (s.slot i).reg) (hid : w.id = (s.slot i).id) (hcb : w.cb = (s.slot i).cb)
    (hrun : w.run = true → 1 ≤ w.remaining.toNat ∨ w.remaining = 0#16 ∧ w.elapsed = 0#16) : (s.setSlot i w).Inv := by
  obtain ⟨-, hle, hregs, hinj, -, -⟩ := h.pool
  have hregi : w.reg = true := by rw [hreg, hregs i (by omega), decide_eq_true hi]
  have hids : ∀ k < s.nreg, k ≠ i → (s.slot k).id ≠ w.id := fun k hk hne he =>
    hne (hinj k hk i hi (he.trans hid))
  exact h.setSlot le_rfl hle hi (fun k hk _ => hk) hregi hids (fun _ => hcb) hrun

/-- `REGISTER` gives the next slot to a new identity (40_timer R142). -/
theorem State.Inv.setNext {s : State} (h : s.Inv) {w : Slot} (hn : s.nreg ≠ s.cfg.nTimers) (hreg : w.reg = true)
    (hrun : w.run = false) (hnew : s.find w.id = none) :
    State.Inv { s.setSlot s.nreg w with nreg := s.nreg + 1 } := by
  obtain ⟨hlen, hle, -, -, -, -⟩ := h.pool
  exact h.setSlot (Nat.le_succ _) (by omega) (Nat.lt_succ_self _) (fun k hk hne => by omega) hreg
    (fun k hk _ => State.id_ne_of_find_none hnew (by omega) hk) (fun hlt => absurd hlt (lt_irrefl _))
    (fun hr => by rw [hrun] at hr; cases hr)

end Machine

end Sys2Proof
end

section
/-! Every step keeps the invariant (10_state R60): one lemma per instruction, per agent's step and for the reset. -/

namespace Sys2Proof.Machine

/-! ## The contexts -/

theorem State.ready_sw_iff (s : State) : s.ready .sw = true ↔ s.softwareRuns := by
  refine ⟨fun h => ?_, State.ready_of_softwareRuns⟩
  simp only [State.ready] at h
  split at h
  · next i hi => exact .inl ⟨i, hi⟩
  · next hi hm => exact .inr ⟨hi, .inl hm⟩
  · next b hi hm => exact .inr ⟨hi, .inr ⟨b, hm⟩⟩
  · cases h
  · cases h

/-- Software does not run in the drain scan (10_state R52). -/
theorem State.not_scan_of_softwareRuns {s : State} (h : s.softwareRuns) (hi : s.isr = .none) (b : Fin 32) :
    s.main ≠ .scan b := by
  rcases h with ⟨i, hc⟩ | ⟨-, hm | ⟨c, hm⟩⟩
  · rw [hi] at hc; cases hc
  · simp [hm]
  · simp [hm]

theorem FaultSet.add_any (f : FaultSet) (i : FaultInfo) : (f.add i).any = true := by
  cases i <;> simp [FaultSet.add, FaultSet.any]

/-- Raising a fault ends the clauses that hold of a block without one (60_exceptions R255). -/
theorem State.Inv.raiseFault {s : State} (h : s.Inv) (f : FaultInfo) : (s.raiseFault f).Inv := by
  obtain ⟨hmask, htick, hcall, hev, hhandler, -⟩ := h.context
  have hf : (s.raiseFault f).fault.any ≠ false := by simp [FaultSet.add_any]
  exact { h with
    busy := fun hn => absurd hn hf
    context := ⟨hmask, htick, hcall, hev, hhandler, fun _ _ _ hn => absurd hn hf⟩ }

/-- Software may write `IE`, in an ISR only to 0 (10_state R37, 43_system R235, R236). -/
theorem State.Inv.setIe {s : State} (h : s.Inv) (hr : s.softwareRuns) {v : Bool} (hv : s.isr ≠ .none → v = false) :
    State.Inv { s with ie := v } := by
  obtain ⟨-, htick, hcall, hev, hhandler, -⟩ := h.context
  exact { h with
    context := ⟨hv, htick, hcall, hev, hhandler, fun b hm hi => absurd hm (State.not_scan_of_softwareRuns hr hi b)⟩ }

theorem State.Inv.setEvents {s : State} (h : s.Inv) {e : Word} (he : e &&& ~~~s.cfg.definedMask = 0#32) :
    State.Inv { s with events := e } := by
  obtain ⟨hmask, htick, hcall, -, hhandler, hscan⟩ := h.context
  exact { h with context := ⟨hmask, htick, hcall, he, hhandler, hscan⟩ }

/-- The main context moves to the drain scan with interrupts enabled (43_system R232, R233; 41_dispatcher R173). -/
theorem State.Inv.toScan {s : State} (h : s.Inv) (hi : s.isr = .none) (b : Fin 32) :
    State.Inv { s with main := .scan b, ie := true } := by
  obtain ⟨-, htick, hcall, hev, -, -⟩ := h.context
  exact { h with
    context := ⟨fun hn => absurd hi hn, htick, hcall, hev, fun c hc => MainCtx.noConfusion hc, fun _ _ _ _ => rfl⟩ }

/-- The tick ISR moves to a slot or to its final step (40_timer R147, 43_system R234, 60_exceptions R262). -/
theorem State.Inv.toTick {s : State} (h : s.Inv) {i : Nat} (hi : i ≤ s.cfg.nTimers) :
    State.Inv { s with isr := .tick i, ie := false } := by
  obtain ⟨-, -, -, hev, hhandler, -⟩ := h.context
  exact { h with
    context := ⟨fun _ => rfl, fun k hk => IsrCtx.tick.inj hk ▸ hi, fun k hk => IsrCtx.noConfusion hk, hev, hhandler,
      fun _ _ hn => IsrCtx.noConfusion hn⟩ }

theorem State.Inv.toCallback {s : State} (h : s.Inv) {i : Nat} (hi : i < s.nreg) (hcb : (s.slot i).cb ≠ noCallback) :
    State.Inv { s with isr := .callback i, ie := false } := by
  obtain ⟨-, -, -, hev, hhandler, -⟩ := h.context
  exact { h with
    context := ⟨fun _ => rfl, fun k hk => IsrCtx.noConfusion hk, fun k hk => IsrCtx.callback.inj hk ▸ ⟨hi, hcb⟩, hev,
      hhandler, fun _ _ hn => IsrCtx.noConfusion hn⟩ }

/-- In an ISR interrupts are masked (60_exceptions R264). -/
theorem State.Inv.masked {s : State} (h : s.Inv) (hi : s.isr ≠ .none) : s.ie = false := by
  obtain ⟨hmask, -⟩ := h.context
  exact hmask hi

/-! ## The instructions -/

theorem execRegister_inv {s s' : State} {id cb : Byte} (h : s.Inv) (hx : execRegister id cb s = .next s') : s'.Inv := by
  unfold execRegister at hx
  split at hx
  · cases hx; exact { h with }
  · next hnew =>
    split at hx
    · cases hx; exact { h with }
    · next hn =>
      cases hx
      exact { h.setNext (w := ⟨true, id, cb, false, 0#16, 0#16⟩) hn rfl rfl hnew with }

theorem execStart_inv {s s' : State} {id : Byte} {dur : Half} (h : s.Inv) (hx : execStart id dur s = .next s') :
    s'.Inv := by
  unfold execStart at hx
  split at hx
  · cases hx; exact { h with }
  · next i hi =>
    cases hx
    have hcount : 1 ≤ dur.toNat ∨ dur = 0#16 ∧ (0#16 : Half) = 0#16 := by
      rcases Nat.eq_zero_or_pos dur.toNat with hz | hpos
      · exact .inr ⟨BitVec.eq_of_toNat_eq hz, rfl⟩
      · exact .inl hpos
    exact { h.setRegistered (w := { s.slot i with run := true, elapsed := 0#16, remaining := dur })
      (State.find_lt_nreg hi) rfl rfl rfl (fun _ => hcount) with }

theorem execStop_inv {s s' : State} {id : Byte} (h : s.Inv) (hx : execStop id s = .next s') : s'.Inv := by
  unfold execStop at hx
  split at hx
  · cases hx; exact { h with }
  · next i hi =>
    cases hx
    exact { h.setRegistered (w := { s.slot i with run := false }) (State.find_lt_nreg hi) rfl rfl rfl
      (fun hr => absurd hr Bool.false_ne_true) with }

theorem execElapsed_inv {s s' : State} {id : Byte} (h : s.Inv) (hx : execElapsed id s = .next s') : s'.Inv := by
  unfold execElapsed at hx
  split at hx <;> cases hx <;> exact { h with }

theorem execPost_inv {s s' : State} {mask : Word} (h : s.Inv) (hx : execPost mask s = .next s') : s'.Inv := by
  unfold execPost at hx
  split at hx
  · cases hx; exact h.raiseFault _
  · next hm =>
    cases hx
    obtain ⟨-, -, -, hev, -, -⟩ := h.context
    have hmask : mask &&& ~~~s.cfg.definedMask = 0#32 := by simpa [State.unmapped] using hm
    exact { h.setEvents (or_within_mask hev hmask) with }

/-- The row write of `ENQ` leaves a transport that is not Idle in its exchange (42_transport R192). -/
theorem Transport.append_inv {c : BusConfig} {x : Transport} {payload : List Byte} {dests : List Addr} (h : x.inv c)
    (hb : x.busy) (hp : x.phase ≠ .idle) (hk : c.rowCap ≤ 254) (hl : payload.length + dests.length ≤ c.rowCap)
    (hf : x.full = false) : (x.append c payload dests).inv c ∧ (x.append c payload dests).busy := by
  obtain ⟨hshape, hcount⟩ := h.shape.append hk hl hf
  have hrow := h.shape.row_rd_append payload dests hf (h.count_pos hp)
  have hw : x.infl.isSome = true ∧ x.bcPend = false ∨ x.infl = none ∧ x.bcPend = true := by
    rcases hb hp with hi | hpend
    · refine .inl ⟨hi, ?_⟩
      cases hpend : x.bcPend with
      | false => rfl
      | true => rw [h.infl_eq_none hpend] at hi; cases hi
    · exact .inr ⟨h.infl_eq_none hpend, hpend⟩
  refine Transport.inv_of_waiting hshape (by omega) hp hw (fun hs => ?_) (fun hr => ?_)
  · show 1 ≤ x.txIdx ∧ x.txIdx ≤ ((x.append c payload dests).row x.rd).txLen.toNat ∧ x.rxIdx = 0
    rw [hrow]; exact h.sending hs
  · show x.txIdx = ((x.append c payload dests).row x.rd).txLen.toNat ∧
      x.rxIdx < ((x.append c payload dests).row x.rd).rxLen.toNat
    rw [hrow]; exact h.receiving hr

theorem execEnq_inv {s s' : State} {t : Bus} {payload : List Byte} {dests : List Addr} (h : s.Inv)
    (hf : s.fault.any = false) (hx : execEnq t payload dests s = .next s') : s'.Inv := by
  obtain ⟨-, -, -, hk⟩ := (BusConfig.inRange_iff _).mp (Config.bus_inRange h.config t)
  unfold execEnq at hx
  split at hx
  · cases hx; exact { h with }
  · next hl =>
    split at hx
    · cases hx; exact { h with }
    · next hfull =>
      have hfull' : (s.xport t).full = false := by simpa using hfull
      have hkept := s.appendRow_kept t payload dests
      have happ : (s.appendRow t payload dests).xport t = (s.xport t).append (s.cfg.bus t) payload dests :=
        State.xport_appendRow_same ..
      cases hx
      split
      · next hidle =>
        obtain ⟨-, hi, hb⟩ := (h.ring t).atRest hidle
        have hstart := State.startRow_inv t (s.appendRow t payload dests)
        rw [happ, State.appendRow_cfg] at hstart
        refine h.of_kept ((hkept.trans (State.startRow_kept t _)).trans (State.finish_kept t _ ..)) ?_
        rw [State.xport_finish]
        exact hstart ((h.ring t).shape.append hk (Nat.le_of_not_lt hl) hfull').1 hi hb
      · next hp =>
        refine h.of_kept (hkept.trans (State.finish_kept t _ ..)) ?_
        rw [State.xport_finish, happ]
        exact Transport.append_inv (h.ring t) (h.busyAt hf t) hp hk (Nat.le_of_not_lt hl) hfull'

theorem execRet_inv {s s' : State} (h : s.Inv) (hx : execRet s = .next s') : s'.Inv := by
  obtain ⟨-, -, hcall, -, -, -⟩ := h.context
  obtain ⟨-, hle, -⟩ := h.pool
  unfold execRet at hx
  split at hx
  · next i hi =>
    cases hx
    obtain ⟨hlt, -⟩ := hcall i hi
    have hie : s.ie = false := h.masked (by simp [hi])
    have ht := h.toTick (i := i + 1) (by omega)
    rwa [← hie] at ht
  · next hi _ => cases hx; exact h.toScan hi 0
  · next b hi _ =>
    split at hx
    · next hie =>
      cases hx
      have hs := h.toScan hi (b + 1)
      rwa [← hie] at hs
    · cases hx; exact h.raiseFault _
  · cases hx
  · cases hx

theorem execCsexit_inv {s s' : State} {v : Bool} (h : s.Inv) (hr : s.softwareRuns) (hx : execCsexit v s = .next s') :
    s'.Inv := by
  unfold execCsexit at hx
  split at hx
  · cases hx; exact { h with }
  · next hv =>
    cases hx
    exact { h.setIe hr (v := v) (fun hi => by simpa [hi] using hv) with }

/-- Every operation keeps the invariant where software runs (10_state R52). -/
theorem exec_inv {i : Instr} {s s' : State} (h : s.Inv) (hf : s.fault.any = false) (hr : s.softwareRuns)
    (hi : i.isEvent = false) (hx : exec i s = .next s') : s'.Inv := by
  cases i with
  | register id cb => exact execRegister_inv h hx
  | start id dur => exact execStart_inv h hx
  | stop id => exact execStop_inv h hx
  | elapsed id => exact execElapsed_inv h hx
  | post mask => exact execPost_inv h hx
  | enq t payload dests => exact execEnq_inv h hf hx
  | ret => exact execRet_inv h hx
  | csenter => cases hx; exact { h.setIe hr (v := false) (fun _ => rfl) with }
  | csexit v => exact execCsexit_inv h hr hx
  | rdmetric sel => cases hx; exact { h with }
  | tick => cases hi
  | bytedone t v => cases hi

/-! ## The agents' steps -/

theorem State.advance_inv {s : State} (h : s.Inv) : s.advance.Inv := by
  unfold State.advance
  split <;> exact { h with }

theorem State.advance_softwareRuns {s : State} (h : s.softwareRuns) : s.advance.softwareRuns := by
  simpa only [State.softwareRuns, State.advance_isr, State.advance_main] using h

/-- The `DISP` step (41_dispatcher R173). -/
theorem State.scanBit_inv {s : State} (h : s.Inv) (hf : s.fault.any = false) {b : Fin 32} (hi : s.isr = .none)
    (hm : s.main = .scan b) : (s.scanBit b).Inv := by
  obtain ⟨hmask, htick, hcall, hev, -, hscan⟩ := h.context
  unfold State.scanBit
  split
  · next hready =>
    have hdef : s.cfg.definedMask.getLsbD b.val = true := by
      simp only [State.eventReady, Bool.and_eq_true] at hready
      exact hready.1
    exact { h with
      context := ⟨hmask, htick, hcall, and_within_mask _ hev, fun c hc => MainCtx.handler.inj hc ▸ hdef,
        fun c hc => MainCtx.noConfusion hc⟩ }
  · have hs := h.toScan hi (b + 1)
    rwa [← hscan b hm hi hf] at hs

/-- A running slot that is counted has ticks left or stops (40_timer R147). -/
theorem Slot.counted_run {w : Slot} (h : w.counted.run = true) : 1 ≤ w.counted.remaining.toNat := by
  unfold Slot.counted at h ⊢
  split at h
  · cases h
  · next hlt =>
    rw [if_neg hlt]
    have hr : 1 < w.remaining.toNat := by simpa [BitVec.le_def] using hlt
    show 1 ≤ (w.remaining - 1#16).toNat
    rw [BitVec.toNat_sub_of_le (by simpa [BitVec.le_def] using hr.le)]
    simp only [BitVec.toNat_ofNat]
    omega

theorem Slot.counted_keeps (w : Slot) : w.counted.reg = w.reg ∧ w.counted.id = w.id ∧ w.counted.cb = w.cb := by
  unfold Slot.counted
  split <;> exact ⟨rfl, rfl, rfl⟩

/-- The `TSEQ` slot step (40_timer R147). -/
theorem State.tickSlot_inv {s : State} (h : s.Inv) {i : Nat} (hi : i < s.cfg.nTimers) (hisr : s.isr = .tick i) :
    (s.tickSlot i).Inv := by
  have hie : s.ie = false := h.masked (by simp [hisr])
  unfold State.tickSlot
  split
  · next hcounts =>
    obtain ⟨hreg, -⟩ : i < s.nreg ∧ (s.slot i).run = true := by simpa [State.counts] using hcounts
    obtain ⟨hr, hid, hcb⟩ := (s.slot i).counted_keeps
    have hset := h.setRegistered hreg hr hid hcb fun hrun => .inl (Slot.counted_run hrun)
    simp only
    split
    · next hfires =>
      have hne : (s.slot i).cb ≠ noCallback := by
        simp only [Slot.fires, Bool.and_eq_true, decide_eq_true_eq] at hfires
        exact hfires.2
      have hsame : (s.setSlot i (s.slot i).counted).slot i = (s.slot i).counted :=
        State.slot_setSlot_same _ (by obtain ⟨hlen, -⟩ := h.pool; omega)
      have hc := hset.toCallback hreg (by rw [hsame, hcb]; exact hne)
      rw [← hie] at hc
      exact { hc with }
    · have ht := hset.toTick (i := i + 1) hi
      rwa [← hie] at ht
  · have ht := h.toTick (i := i + 1) hi
    rwa [← hie] at ht

/-- The `TSEQ` final step re-arms and returns (40_timer R149, 60_exceptions R263). -/
theorem State.tickFinal_inv {s : State} (h : s.Inv) : s.tickFinal.Inv := by
  obtain ⟨-, -, -, hev, hhandler, -⟩ := h.context
  exact { h with
    context := ⟨fun hn => absurd rfl hn, fun _ hk => IsrCtx.noConfusion hk, fun _ hk => IsrCtx.noConfusion hk, hev,
      hhandler, fun _ _ _ _ => rfl⟩ }

theorem State.tickScan_inv {s : State} (h : s.Inv) {i : Nat} (hisr : s.isr = .tick i) : (s.tickScan i).Inv := by
  unfold State.tickScan
  split
  · next hi => exact State.tickSlot_inv h hi hisr
  · exact State.tickFinal_inv h

/-- The peripheral completes the byte in flight (42_transport R198). -/
theorem State.bytedone_inv {s : State} (h : s.Inv) {t : Bus} (v : Byte) (hi : (s.xport t).infl.isSome = true) :
    State.Inv ((s.modXport t fun x => { x with infl := none, rxData := v, bcPend := true }).emit (.rx t v)) := by
  have hring := h.ring t
  have hp : (s.xport t).phase ≠ .idle := hring.phase_ne_idle (.inl hi)
  refine h.of_kept ((State.modXport_kept t s _).trans (State.emit_kept t _ _)) ?_
  rw [State.xport_emit, State.xport_modXport_same]
  exact Transport.inv_of_waiting { hring.shape with } (hring.count_pos hp) hp (.inr ⟨rfl, rfl⟩) hring.sending
    hring.receiving

/-! ## The byte-complete ISR -/

/-- The state once the byte-complete ISR has stored a byte and reported it (42_transport R201, 20_memory R80). -/
abbrev State.stored (a : Addr) (v : Byte) (s : State) : State :=
  { s with dm := Memory.write s.dm a.toNat v, trace := s.trace ++ [.mem a v] }

theorem State.KeptByTransport.refl (t : Bus) (s : State) : s.KeptByTransport t s := by
  constructor <;> simp

/-- The ISR body raises `BAD_DEST` and does nothing else, or it stores at most one byte and then changes its transport
alone (42_transport R199-R202). -/
theorem State.bcBody_cases (t : Bus) (s : State) :
    (∃ a, s.bcBody t = .error (s.raiseFault (.badDest a))) ∨
      ∃ u s', s.bcBody t = .ok s' ∧ (u = s ∨ ∃ a v, u = s.stored a v) ∧ u.KeptByTransport t s' := by
  unfold State.bcBody
  split
  · exact .inr ⟨s, _, rfl, .inl rfl, s.bcSending_kept t⟩
  · rcases s.bcReceiving_cases t with ⟨-, hr⟩ | ⟨-, s', hr, hk⟩
    · exact .inl ⟨_, hr⟩
    · exact .inr ⟨_, s', hr, .inr ⟨_, _, rfl⟩, hk⟩
  · exact .inr ⟨s, s, rfl, .inl rfl, .refl t s⟩

/-- Entry and return around a change of one transport leave `isr` and `IE` as they were (60_exceptions R262, R263). -/
theorem State.KeptByTransport.returned {t : Bus} {s s' : State} (hi : s.isr = .none) (hie : s.ie = true)
    (k : (s.enterInterrupt (.bc t)).KeptByTransport t s') : s.KeptByTransport t s'.returnInterrupt where
  cfg := k.cfg.trans (State.enterInterrupt_cfg ..)
  ie := hie.symm
  tickPend := k.tickPend.trans (by cases t <;> rfl)
  cmp := k.cmp.trans (State.enterInterrupt_cmp ..)
  slots := k.slots.trans (State.enterInterrupt_slots ..)
  nreg := k.nreg.trans (State.enterInterrupt_nreg ..)
  other u hu := (State.xport_returnInterrupt s' u).trans ((k.other u hu).trans (State.xport_modXport_other s _ hu))
  met := k.met.trans (State.enterInterrupt_met ..)
  main := k.main.trans (State.enterInterrupt_main ..)
  isr := hi.symm
  fault := k.fault.trans (State.enterInterrupt_fault ..)
  dm := k.dm.trans (State.enterInterrupt_dm ..)
  program := k.program.trans (State.enterInterrupt_program ..)
  mainPos := k.mainPos.trans (State.enterInterrupt_mainPos ..)
  cbPos := k.cbPos.trans (State.enterInterrupt_cbPos ..)
  moves := k.moves.trans (State.enterInterrupt_moves ..)
  events := by
    have he := k.events
    rwa [State.enterInterrupt_events, State.enterInterrupt_cfg] at he
  trace := by
    have ht := k.trace
    rwa [State.enterInterrupt_trace] at ht

/-- The whole ISR, taken when `IRQ` may take it: it ends at the raise of `BAD_DEST`, or it stores at most one byte and
then changes its transport alone (42_transport R199, 60_exceptions R255). -/
theorem State.byteComplete_cases (t : Bus) {s : State} (hi : s.isr = .none) (hie : s.ie = true) :
    (∃ a, s.byteComplete t = (s.enterInterrupt (.bc t)).raiseFault (.badDest a)) ∨
      ∃ u s', (s.enterInterrupt (.bc t)).bcBody t = .ok s' ∧ s.byteComplete t = s'.returnInterrupt ∧
        (u = s ∨ ∃ a v, u = s.stored a v) ∧ u.KeptByTransport t s'.returnInterrupt := by
  unfold State.byteComplete
  rcases (s.enterInterrupt (.bc t)).bcBody_cases t with ⟨a, hb⟩ | ⟨u, s', hb, hu, hk⟩
  · exact .inl ⟨a, by rw [hb]⟩
  · rw [hb]
    rcases hu with rfl | ⟨a, v, rfl⟩
    · exact .inr ⟨s, s', rfl, rfl, .inl rfl, hk.returned hi hie⟩
    · have hcomm : (s.enterInterrupt (.bc t)).stored a v = (s.stored a v).enterInterrupt (.bc t) := by cases t <;> rfl
      rw [hcomm] at hk
      exact .inr ⟨s.stored a v, s', rfl, rfl, .inr ⟨a, v, rfl⟩, hk.returned hi hie⟩

theorem State.Inv.stored {s : State} (h : s.Inv) (a : Addr) (v : Byte) : (s.stored a v).Inv :=
  { h with memory := Memory.write_wf s.dm a v h.memory }

/-- Entry to the byte-complete ISR, before a fault it raises (60_exceptions R255, R262). -/
theorem State.Inv.enterBc_raiseFault {s : State} (h : s.Inv) (t : Bus) (f : FaultInfo) :
    State.Inv ((s.enterInterrupt (.bc t)).raiseFault f) := by
  obtain ⟨-, htick, hcall, hev, hhandler, -⟩ := h.context
  have hf : (s.fault.add f).any ≠ false := by simp [FaultSet.add_any]
  cases t with
  | a => exact { h with
      ringA := h.ringA.clear_bcPend, busy := fun hn => absurd hn hf
      context := ⟨fun _ => rfl, htick, hcall, hev, hhandler, fun _ _ _ hn => absurd hn hf⟩ }
  | b => exact { h with
      ringB := h.ringB.clear_bcPend, busy := fun hn => absurd hn hf
      context := ⟨fun _ => rfl, htick, hcall, hev, hhandler, fun _ _ _ hn => absurd hn hf⟩ }

/-- The body's transport, in each phase (42_transport R200, R201). -/
theorem State.bcBody_inv {t : Bus} {s s' : State} (h : (s.xport t).inv (s.cfg.bus t)) (hp : (s.xport t).phase ≠ .idle)
    (hi : (s.xport t).infl = none) (hb : (s.xport t).bcPend = false) (hx : s.bcBody t = .ok s') :
    (s'.xport t).inv (s.cfg.bus t) ∧ (s'.xport t).busy := by
  unfold State.bcBody at hx
  split at hx
  · next hs => cases hx; exact State.bcSending_inv h hs hi hb
  · next hr => exact State.bcReceiving_inv h hr hi hb hx
  · next hidle => exact absurd hidle hp

theorem State.byteComplete_inv {s : State} (h : s.Inv) {t : Bus} (hi : s.isr = .none) (hie : s.ie = true)
    (hb : (s.xport t).bcPend = true) : (s.byteComplete t).Inv := by
  rcases State.byteComplete_cases t hi hie with ⟨a, hx⟩ | ⟨u, s', hbody, hx, hu, hk⟩
  · rw [hx]; exact h.enterBc_raiseFault t _
  · have hinv : u.Inv ∧ u.cfg = s.cfg := by
      rcases hu with rfl | ⟨a, v, rfl⟩
      · exact ⟨h, rfl⟩
      · exact ⟨h.stored a v, rfl⟩
    have hring := h.ring t
    have henter : (s.enterInterrupt (.bc t)).xport t = { s.xport t with bcPend := false } := by cases t <;> rfl
    have hs' := @State.bcBody_inv t (s.enterInterrupt (.bc t)) s'
    rw [henter, State.enterInterrupt_cfg] at hs'
    rw [hx]
    refine hinv.1.of_kept hk ?_
    rw [State.xport_returnInterrupt, hinv.2]
    exact hs' hring.clear_bcPend (hring.phase_ne_idle (.inr hb)) (hring.infl_eq_none hb) rfl hbody

/-! ## Reset -/

theorem Transport.blank_inv (c : BusConfig) (h : 1 ≤ c.rows) :
    (Transport.blank c).inv c ∧ (Transport.blank c).busy := by
  have hcount : (Transport.blank c).count = 0 := by
    simp [Transport.count, Transport.blank, Row.blank_not_occupied]
  have hfree : ∀ r, (Transport.blank c).occupied r = false := fun r => by
    by_contra ho
    have hlt := Transport.lt_of_occupied (by simpa using ho)
    rw [Transport.occupied, Transport.row_eq_getElem hlt] at ho
    simp [Transport.blank, Row.blank_not_occupied] at ho
  refine Transport.inv_of_idle ⟨List.length_replicate, h, h, ?_, ?_, fun k _ => ?_⟩ ⟨rfl, rfl, rfl⟩ rfl rfl hcount
  · intro w hw
    rw [List.eq_of_mem_replicate hw]
    exact ⟨List.length_replicate, List.length_replicate, fun ho => by rw [Row.blank_not_occupied] at ho; cases ho⟩
  · rw [hcount]; exact (Nat.zero_mod _).symm
  · rw [hfree, hcount]; simp

theorem State.resetWith_slot (c : Config) (m : Memory) (p : Option Program) (i : Nat) :
    (State.resetWith c m p).slot i = Slot.blank := by
  simp only [State.slot, State.resetWith, List.getD_eq_getElem?_getD, List.getElem?_replicate]
  split <;> rfl

theorem State.resetWith_inv {c : Config} {m : Memory} (p : Option Program) (hc : c.wf = true) (hm : Memory.wf m = true) :
    (State.resetWith c m p).Inv := by
  have hrows : ∀ t, 1 ≤ (c.bus t).rows := fun t => ((BusConfig.inRange_iff _).mp (Config.bus_inRange hc t)).1
  obtain ⟨hra, hba⟩ := Transport.blank_inv c.busA (hrows .a)
  obtain ⟨hrb, hbb⟩ := Transport.blank_inv c.busB (hrows .b)
  constructor
  case config => exact hc
  case pool =>
    simp only [State.poolInv, State.resetWith_slot]
    exact ⟨List.length_replicate, Nat.zero_le _, fun _ _ => rfl, fun _ hi => absurd hi (Nat.not_lt_zero _),
      fun _ _ _ => rfl, fun _ _ hr => absurd hr Bool.false_ne_true⟩
  case ringA => exact hra
  case ringB => exact hrb
  case busy => exact fun _ => ⟨hba, hbb⟩
  case context =>
    exact ⟨fun hn => absurd rfl hn, fun _ hk => IsrCtx.noConfusion hk, fun _ hk => IsrCtx.noConfusion hk,
      BitVec.zero_and, fun _ hk => MainCtx.noConfusion hk, fun _ hk => MainCtx.noConfusion hk⟩
  case memory => exact hm

/-! ## The step -/

theorem State.took_inv {s s' : State} {m : Move} (h : s.Inv) (hf : m.isReset = false → s.fault.any = false)
    (ht : s.Took m s') : s'.Inv := by
  cases ht with
  | operation s hp hr hd hx => exact exec_inv h (hf rfl) (s.ready_sw_iff.mp hr) (decodeOp_not_event hd) hx
  | illegal s hp hr hd => exact { h with }
  | routine s hr hn hd hx =>
    refine exec_inv (State.advance_inv h) ?_ (State.advance_softwareRuns (s.ready_sw_iff.mp hr)) (decodeOp_not_event hd) hx
    rw [State.advance_fault]; exact hf rfl
  | routineIllegal s hr hn hd => exact { State.advance_inv h with }
  | scan s b hi hm => exact State.scanBit_inv h (hf rfl) hi hm
  | tickEntry s hi hie hp => exact { h.toTick (Nat.zero_le _) with }
  | byteComplete s t hi hie hp => exact State.byteComplete_inv h hi hie hp
  | tickScan s i hi => exact State.tickScan_inv h hi
  | tick s hd => exact { h with }
  | bytedone s t v hd hi => exact State.bytedone_inv h v hi
  | externalWrite s a v => exact { h with memory := Memory.write_wf s.dm a v h.memory }
  | externalReset s launch => exact { State.resetWith_inv s.program h.config (Memory.ofLaunch_wf launch) with }

/-- Settles O19: the inversion of the step, and one lemma per move. -/
theorem everyStepKeepsTheInvariant : Obligations.EveryStepKeepsTheInvariant := by
  intro s s' h hs
  obtain ⟨-, m, rest, -, ht⟩ := step_inv hs
  obtain ⟨hf, took⟩ := State.took_of_take ht
  exact State.took_inv (s := { s with moves := rest }) { h with } hf took

/-- Settles O18. -/
theorem resetMeetsTheInvariant : Obligations.ResetMeetsTheInvariant := fun _ launch p hc =>
  State.resetWith_inv p hc (Memory.ofLaunch_wf launch)

end Sys2Proof.Machine
end

section
/-! What a step does and when it is taken (10_state R52): the move's answer, the agents' conditions, the stop after a
fault, the values at reset, and what the steps do to the configuration and to `IE` (R31, R37). -/

namespace Sys2Proof.Machine

/-! ## Taking a move -/

/-- Unconstrained software that may issue an operation issues the presented one (10_state R52). -/
theorem State.take_software {s : State} (hf : s.fault.any = false) (hp : s.program = none) (hr : s.softwareRuns)
    (p : OpWords) : s.take (.software p) = s.issue p := by
  simp [State.take, State.allows, State.perform, hf, hp, State.ready_of_softwareRuns hr]

/-- A decoded event word is taken, `BYTEDONE` with a byte in flight (10_state R52, 30_encoding R109). -/
theorem State.take_event {s : State} {w : Word} {i : Instr} (hf : s.fault.any = false) (hd : decodeEvent w = .ok i)
    (hi : ∀ t v, i = .bytedone t v → (s.xport t).infl ≠ none) : s.take (.event w) = exec i s := by
  have ha : s.allows (.event w) = true := by
    rcases decodeEvent_cases hd with ⟨-, rfl⟩ | ⟨-, -, rfl⟩
    · simp [State.allows, hd]
    · simpa [State.allows, State.ready, hd, Option.isSome_iff_ne_none] using hi _ _ rfl
  simp [State.take, State.perform, State.eventStep, hf, ha, hd]

/-- Settles O7. -/
theorem stepIssuesTheDecodedOperation : Obligations.StepIssuesTheDecodedOperation := by
  intro s p rest i hw hp hr hd
  have htake : (s.withMoves rest).take (.software p) = (s.withMoves rest).issue p :=
    State.take_software (s := s.withMoves rest) ((FaultSet.any_eq_false_iff _).mpr hw.2.1) hp hr p
  rw [step_of_willTake hw, htake]
  simp only [State.issue, hd]

/-- Settles O8. -/
theorem stepRunsTheEventWord : Obligations.StepRunsTheEventWord := by
  intro s w rest i hw hd hi
  rw [step_of_willTake hw]
  refine State.take_event ((FaultSet.any_eq_false_iff _).mpr hw.2.1) hd fun t v he => ?_
  have hx : ({ s with moves := rest } : State).xport t = s.xport t := by cases t <;> rfl
  rw [hx]
  exact hi t v he

theorem Move.isReset_eq_false_iff (m : Move) : m.isReset = false ↔ ∀ launch, m ≠ .externalReset launch := by
  cases m <;> simp [Move.isReset]

/-- Settles O11. -/
theorem faultedBlockHasNoStep : Obligations.FaultedBlockHasNoStep := by
  intro s m rest hc hm hf hr
  have hany : s.fault.any = true := by
    by_contra hn
    exact hf ((FaultSet.any_eq_false_iff _).mp (by simpa using hn))
  rw [step_eq hc hm]
  simp [State.take, hany, (Move.isReset_eq_false_iff m).mpr hr]

/-! ## The agents (10_state R52) -/

/-- The condition of the table of 10_state R52 for each agent, `nofault` apart. -/
def State.agentCondition (s : State) : Agent → Prop
  | .sw => s.softwareRuns
  | .disp => s.isr = .none ∧ ∃ b, s.main = .scan b
  | .irq src => s.isr = .none ∧ s.ie = true ∧ s.pending src = true
  | .tseq => ∃ i, s.isr = .tick i
  | .ticksrc => True
  | .per t => (s.xport t).infl.isSome = true

/-- A move that is taken is its agent's, under the agent's condition. -/
theorem State.Took.agentCondition {s s' : State} {m : Move} {g : Agent} (h : s.Took m s') (hg : m.agent = some g) :
    s.agentCondition g := by
  cases h with
  | operation s hp hr hd hx => cases hg; exact s.ready_sw_iff.mp hr
  | illegal s hp hr hd => cases hg; exact s.ready_sw_iff.mp hr
  | routine s hr hn hd hx => cases hg; exact s.ready_sw_iff.mp hr
  | routineIllegal s hr hn hd => cases hg; exact s.ready_sw_iff.mp hr
  | scan s b hi hm => cases hg; exact ⟨hi, b, hm⟩
  | tickEntry s hi hie hp => cases hg; exact ⟨hi, hie, hp⟩
  | byteComplete s t hi hie hp => cases hg; exact ⟨hi, hie, hp⟩
  | tickScan s i hi => cases hg; exact ⟨i, hi⟩
  | tick s hd => simp only [Move.agent, hd] at hg; cases hg; trivial
  | bytedone s t v hd hi => simp only [Move.agent, hd] at hg; cases hg; exact hi
  | externalWrite s a v => cases hg
  | externalReset s launch => cases hg

/-- An agent whose condition holds has a move that is taken; unconstrained software may always issue `CSENTER`. -/
theorem State.exists_took_of_agentCondition {s : State} {g : Agent} (hp : s.program = none) (h : s.agentCondition g) :
    ∃ m s', m.agent = some g ∧ s.Took m s' := by
  cases g with
  | sw =>
    have hd : decodeOp (encode .csenter) = .ok .csenter := by decide
    exact ⟨.software (encode .csenter), _, rfl, .operation s hp (s.ready_sw_iff.mpr h) hd rfl⟩
  | disp =>
    obtain ⟨hi, b, hm⟩ := h
    exact ⟨.dispatcher, _, rfl, .scan s b hi hm⟩
  | irq src =>
    obtain ⟨hi, hie, hpend⟩ := h
    cases src with
    | tick => exact ⟨.interrupt .tick, _, rfl, .tickEntry s hi hie hpend⟩
    | bc t => exact ⟨.interrupt (.bc t), _, rfl, .byteComplete s t hi hie hpend⟩
  | tseq =>
    obtain ⟨i, hi⟩ := h
    exact ⟨.tickScan, _, rfl, .tickScan s i hi⟩
  | ticksrc =>
    have hd : decodeEvent (encode .tick).word = .ok .tick := by decide
    exact ⟨.event (encode .tick).word, _, by simp only [Move.agent, hd], .tick s hd⟩
  | per t =>
    have hd : decodeEvent (encode (.bytedone t 0#8)).word = .ok (.bytedone t 0#8) := by cases t <;> decide
    exact ⟨.event (encode (.bytedone t 0#8)).word, _, by simp only [Move.agent, hd], .bytedone s t 0#8 hd h⟩

theorem State.agentCondition_withMoves (s : State) (ms : List Move) (g : Agent) :
    State.agentCondition { s with moves := ms } g ↔ s.agentCondition g := by
  cases g with
  | irq src =>
    cases src with
    | tick => rfl
    | bc t => cases t <;> rfl
  | per t => cases t <;> rfl
  | sw => rfl
  | disp => rfl
  | tseq => rfl
  | ticksrc => rfl

/-- With no program fixing what software does, an agent has a step exactly under its condition. -/
theorem exists_step_iff_agentCondition {s : State} {g : Agent} (hc : s.cfg.wf = true) (hp : s.program = none) :
    (∃ m s', m.agent = some g ∧ step { s with moves := [m] } = .next s') ↔
      s.fault = FaultSet.empty ∧ s.agentCondition g := by
  constructor
  · rintro ⟨m, s', hg, hs⟩
    obtain ⟨hf, took⟩ := State.took_of_take ((step_eq (s := { s with moves := [m] }) hc rfl).symm.trans hs)
    have hr : m.isReset = false := (Move.isReset_eq_false_iff m).mpr (by rintro launch rfl; cases hg)
    exact ⟨(FaultSet.any_eq_false_iff _).mp (hf hr), (s.agentCondition_withMoves [] g).mp (took.agentCondition hg)⟩
  · rintro ⟨hf, hcond⟩
    obtain ⟨m, s', hg, took⟩ :=
      State.exists_took_of_agentCondition (s := { s with moves := [] }) hp ((s.agentCondition_withMoves [] g).mpr hcond)
    exact ⟨m, s', hg, step_of_took ⟨hc, hf, rfl⟩ took⟩

/-- Settles O10. -/
theorem agentMovesExactlyWhenEnabled : Obligations.AgentMovesExactlyWhenEnabled := by
  intro s g hc hp
  rw [exists_step_iff_agentCondition hc hp]
  refine and_congr_right fun _ => ?_
  cases g with
  | sw => exact or_comm
  | irq src => cases src <;> rfl
  | per t => exact Option.isSome_iff_ne_none
  | disp => rfl
  | tseq => rfl
  | ticksrc => rfl

/-! ## Reset (10_state R59) -/

/-- Settles O16. -/
theorem resetValues : Obligations.ResetValues := by
  intro c launch p
  refine ⟨rfl, rfl, rfl, rfl, rfl, rfl, List.length_replicate, fun w hw => ?_, fun t => ?_, rfl, rfl, rfl, rfl, rfl, rfl⟩
  · rw [List.eq_of_mem_replicate hw]
    exact ⟨rfl, rfl, rfl, rfl, rfl, rfl⟩
  · have hx : (State.resetWith c launch p).xport t = Transport.blank (c.bus t) := by cases t <;> rfl
    rw [hx]
    refine ⟨rfl, rfl, rfl, rfl, rfl, rfl, rfl, rfl, List.length_replicate, fun w hw => ?_⟩
    rw [List.eq_of_mem_replicate hw]
    exact ⟨rfl, rfl, rfl, rfl⟩

/-! ## What an operation does to the configuration and to `IE` -/

/-- `ENQ` changes its own transport, and a metric when it is refused (42_transport R192). -/
theorem execEnq_kept {s s' : State} {t : Bus} {payload : List Byte} {dests : List Addr}
    (h : execEnq t payload dests s = .next s') : State.KeptByTransport t { s with met := s'.met } s' := by
  unfold execEnq at h
  split at h
  · cases h; exact State.finish_kept t s ..
  · split at h
    · cases h; exact State.finish_kept t (s.count _) ..
    · have happ := s.appendRow_kept t payload dests
      cases h
      split
      · have hk := (happ.trans (State.startRow_kept t _)).trans (State.finish_kept t _ .enq .ok 0#16)
        rw [hk.met]; exact hk
      · have hk := happ.trans (State.finish_kept t _ .enq .ok 0#16)
        rw [hk.met]; exact hk

/-- No operation writes the configuration (10_state R31); the operations that write `IE`, and what they write (R37). -/
theorem exec_cfg_and_ie {i : Instr} {s s' : State} (h : exec i s = .next s') :
    s'.cfg = s.cfg ∧
      (s'.ie = s.ie ∨ i = .csenter ∧ s'.ie = false
        ∨ (∃ v, i = .csexit v ∧ s'.ie = v ∧ (v = true → s.isr = .none))
        ∨ i = .ret ∧ s.isr = .none ∧ s.main = .init ∧ s'.ie = true) := by
  cases i with
  | register id cb =>
    simp only [exec, execRegister] at h
    split at h
    · cases h; exact ⟨rfl, .inl rfl⟩
    · split at h <;> cases h <;> exact ⟨rfl, .inl rfl⟩
  | start id dur => simp only [exec, execStart] at h; split at h <;> cases h <;> exact ⟨rfl, .inl rfl⟩
  | stop id => simp only [exec, execStop] at h; split at h <;> cases h <;> exact ⟨rfl, .inl rfl⟩
  | elapsed id => simp only [exec, execElapsed] at h; split at h <;> cases h <;> exact ⟨rfl, .inl rfl⟩
  | post mask => simp only [exec, execPost] at h; split at h <;> cases h <;> exact ⟨rfl, .inl rfl⟩
  | enq t payload dests => exact ⟨(execEnq_kept h).cfg, .inl (execEnq_kept h).ie⟩
  | ret =>
    simp only [exec, execRet] at h
    split at h
    · cases h; exact ⟨rfl, .inl rfl⟩
    · next hi hm => cases h; exact ⟨rfl, .inr (.inr (.inr ⟨rfl, hi, hm, rfl⟩))⟩
    · split at h <;> cases h <;> exact ⟨rfl, .inl rfl⟩
    · cases h
    · cases h
  | csenter => cases h; exact ⟨rfl, .inr (.inl ⟨rfl, rfl⟩)⟩
  | csexit v =>
    simp only [exec, execCsexit] at h
    split at h
    · cases h; exact ⟨rfl, .inl rfl⟩
    · next hv =>
      cases h
      exact ⟨rfl, .inr (.inr (.inl ⟨v, rfl, rfl, fun hv' => by simpa [hv'] using hv⟩))⟩
  | rdmetric sel => cases h; exact ⟨rfl, .inl rfl⟩
  | tick => cases h; exact ⟨rfl, .inl rfl⟩
  | bytedone t v =>
    simp only [exec, execBytedone] at h
    split at h <;> cases h
    exact ⟨State.modXport_cfg .., .inl (State.modXport_ie ..)⟩

theorem exec_cfg {i : Instr} {s s' : State} (h : exec i s = .next s') : s'.cfg = s.cfg := (exec_cfg_and_ie h).1

/-- The operations that change `IE` (10_state R37). -/
theorem exec_changes_ie {i : Instr} {s s' : State} (h : exec i s = .next s') (hne : s'.ie ≠ s.ie) :
    (s'.ie = false ∧ (i = .csenter ∨ i = .csexit false))
      ∨ (s'.ie = true ∧ (i = .csexit true ∧ s.isr = .none ∨ i = .ret ∧ s.isr = .none ∧ s.main = .init)) := by
  rcases (exec_cfg_and_ie h).2 with he | ⟨hi, he⟩ | ⟨v, hi, he, hv⟩ | ⟨hi, hn, hm, he⟩
  · exact absurd he hne
  · exact .inl ⟨he, .inl hi⟩
  · cases v with
    | false => exact .inl ⟨he, .inr hi⟩
    | true => exact .inr ⟨he, .inl ⟨hi, hv rfl⟩⟩
  · exact .inr ⟨he, .inr ⟨hi, hn, hm⟩⟩

theorem State.scanBit_cfg (s : State) (b : Fin 32) : (s.scanBit b).cfg = s.cfg := by
  unfold State.scanBit
  split <;> rfl

theorem State.scanBit_ie (s : State) (b : Fin 32) : (s.scanBit b).ie = s.ie := by
  unfold State.scanBit
  split <;> rfl

/-- The slot step writes neither the configuration nor `IE` (40_timer R147). -/
theorem State.tickSlot_cfg_and_ie (s : State) (i : Nat) : (s.tickSlot i).cfg = s.cfg ∧ (s.tickSlot i).ie = s.ie := by
  unfold State.tickSlot
  simp only
  split
  · split <;> exact ⟨rfl, rfl⟩
  · exact ⟨rfl, rfl⟩

theorem State.tickScan_cfg (s : State) (i : Nat) : (s.tickScan i).cfg = s.cfg := by
  unfold State.tickScan
  split
  · exact (s.tickSlot_cfg_and_ie i).1
  · rfl

theorem State.byteComplete_cfg {s : State} {t : Bus} (hi : s.isr = .none) (hie : s.ie = true) :
    (s.byteComplete t).cfg = s.cfg := by
  rcases State.byteComplete_cases t hi hie with ⟨a, hx⟩ | ⟨u, s', -, hx, rfl | ⟨a, v, rfl⟩, hk⟩
  · rw [hx]; simp
  · rw [hx]; exact hk.cfg
  · rw [hx]; exact hk.cfg

theorem State.Took.cfg {s s' : State} {m : Move} (h : s.Took m s') : s'.cfg = s.cfg := by
  cases h with
  | operation s hp hr hd hx => exact exec_cfg hx
  | illegal s hp hr hd => rfl
  | routine s hr hn hd hx => exact (exec_cfg hx).trans s.advance_cfg
  | routineIllegal s hr hn hd => exact s.advance_cfg
  | scan s b hi hm => exact s.scanBit_cfg b
  | tickEntry s hi hie hp => rfl
  | byteComplete s t hi hie hp => exact State.byteComplete_cfg hi hie
  | tickScan s i hi => exact s.tickScan_cfg i
  | tick s hd => rfl
  | bytedone s t v hd hi => exact State.modXport_cfg ..
  | externalWrite s a v => rfl
  | externalReset s launch => rfl

/-- Settles O12. -/
theorem configurationIsFixed : Obligations.ConfigurationIsFixed := by
  intro s s' h
  obtain ⟨-, m, rest, -, ht⟩ := step_inv h
  exact (State.took_of_take ht).2.cfg

theorem State.issues_software {s : State} {p : OpWords} {i : Instr} (hd : decodeOp p = .ok i) :
    s.issues (.software p) = some i := by
  simp [State.issues, State.presented, hd, Except.toOption]

theorem State.issues_routine {s : State} {p : OpWords} {i : Instr} (hn : s.nextOp = some p) (hd : decodeOp p = .ok i) :
    s.issues .routine = some i := by
  simp [State.issues, State.presented, hn, hd, Except.toOption]

/-- Who writes `IE` in a move that is taken (10_state R37). -/
theorem State.Took.changes_ie {s s' : State} {m : Move} (h : s.Took m s') (hr : m.isReset = false)
    (hne : s'.ie ≠ s.ie) :
    (s'.ie = false ∧
      (s.issues m = some .csenter ∨ s.issues m = some (.csexit false) ∨ m = .interrupt .tick
        ∨ ∃ t a, m = .interrupt (.bc t) ∧ s'.trace = s.trace ++ [.fault (.badDest a)]))
    ∨ (s'.ie = true ∧
      (s.issues m = some (.csexit true) ∧ s.isr = .none
        ∨ s.issues m = some .ret ∧ s.isr = .none ∧ s.main = .init
        ∨ m = .tickScan ∧ (∃ i, s.isr = .tick i) ∧ s'.isr = .none)) := by
  cases h with
  | operation s hp hr hd hx =>
    rw [State.issues_software hd]
    rcases exec_changes_ie hx hne with ⟨he, rfl | rfl⟩ | ⟨he, ⟨rfl, hi⟩ | ⟨rfl, hi, hm⟩⟩ <;> simp [*]
  | illegal s hp hr hd => exact absurd rfl hne
  | routine s hr hn hd hx =>
    rw [State.issues_routine hn hd]
    rw [← s.advance_ie] at hne
    rcases exec_changes_ie hx hne with ⟨he, rfl | rfl⟩ | ⟨he, ⟨rfl, hi⟩ | ⟨rfl, hi, hm⟩⟩ <;> simp_all
  | routineIllegal s hr hn hd => exact absurd s.advance_ie hne
  | scan s b hi hm => exact absurd (s.scanBit_ie b) hne
  | tickEntry s hi hie hp => exact .inl ⟨rfl, .inr (.inr (.inl rfl))⟩
  | byteComplete s t hi hie hp =>
    rcases State.byteComplete_cases t hi hie with ⟨a, hx⟩ | ⟨u, s', -, hx, hu, hk⟩
    · rw [hx]
      exact .inl ⟨by simp, .inr (.inr (.inr ⟨t, a, rfl, by simp⟩))⟩
    · rw [hx] at hne
      rcases hu with rfl | ⟨a, v, rfl⟩ <;> exact absurd hk.ie hne
  | tickScan s i hi =>
    unfold State.tickScan at hne ⊢
    split at hne
    · exact absurd (s.tickSlot_cfg_and_ie i).2 hne
    · next hn =>
      rw [if_neg hn]
      exact .inr ⟨rfl, .inr (.inr ⟨rfl, ⟨i, hi⟩, rfl⟩)⟩
  | tick s hd => exact absurd rfl hne
  | bytedone s t v hd hi => exact absurd (State.modXport_ie ..) hne
  | externalWrite s a v => exact absurd rfl hne
  | externalReset s launch => cases hr

/-- Settles O57. -/
theorem onlyTheListedWritersChangeTheEnable : Obligations.OnlyTheListedWritersChangeTheEnable := by
  intro s s' m rest hm hr hs hne
  obtain ⟨hc, -⟩ := step_inv hs
  rw [step_eq hc hm] at hs
  have hissues : ({ s with moves := rest } : State).issues m = s.issues m := by cases m <;> rfl
  have h := (State.took_of_take hs).2.changes_ie hr hne
  rwa [hissues] at h

end Sys2Proof.Machine
end

section
/-! The state-register numbering of 10_state R54, one lemma per register word: where each field stands. -/

namespace Sys2Proof.Machine

/-! ## Fields -/

theorem byteOf_toNat {n : Nat} (h : n ≤ 255) : (byteOf n).toNat = n :=
  (BitVec.toNat_ofNat ..).trans (Nat.mod_eq_of_lt (by omega))

theorem bit_getLsbD_zero (b : Bool) : (bit b).getLsbD 0 = b := by cases b <;> rfl

/-- The halves of a word written from its bytes. -/
theorem wordOfBytes_eq_halves (a b c d : Byte) : wordOfBytes a b c d = ((a ++ b : Half) ++ (c ++ d : Half) : Word) := by
  apply BitVec.eq_of_toNat_eq
  simp only [wordOfBytes, BitVec.toNat_append, Nat.shiftLeft_or_distrib, ← Nat.shiftLeft_add, Nat.or_assoc]

/-! ## The words -/

theorem State.ctrl_fields (s : State) :
    s.ctrl.getLsbD 0 = s.ie ∧ s.ctrl.getLsbD 1 = s.tickPend ∧ s.ctrl.getLsbD 2 = s.busA.bcPend
      ∧ s.ctrl.getLsbD 3 = s.busB.bcPend ∧ s.ctrl.extractLsb' 4 28 = 0#28 := by
  unfold State.ctrl
  refine ⟨?_, ?_, ?_, ?_, ?_⟩
  case refine_5 =>
    simp (disch := decide) only [BitVec.extractLsb'_append_eq_of_le, BitVec.extractLsb'_eq_self, Nat.reduceSub]
  all_goals simp only [BitVec.getLsbD_append, bit_getLsbD_zero, Nat.reduceLT, Nat.reduceSub, if_true, if_false]

theorem FaultSet.bits_fields (f : FaultSet) :
    f.bits.getLsbD 0 = f.unmappedEvent ∧ f.bits.getLsbD 1 = f.badDest ∧ f.bits.getLsbD 2 = f.leftMasked
      ∧ f.bits.extractLsb' 3 29 = 0#29 := by
  rcases f with ⟨u, b, l⟩
  cases u <;> cases b <;> cases l <;> decide

/-- `SR4` as its four bytes. -/
theorem State.ctx_eq (s : State) :
    s.ctx = wordOfBytes s.isr.index (0#6 ++ s.isr.kind) (0#3 ++ s.main.index) (0#6 ++ s.main.kind) := by
  apply BitVec.eq_of_toNat_eq
  simp only [State.ctx, wordOfBytes, BitVec.toNat_append, Nat.shiftLeft_or_distrib, ← Nat.shiftLeft_add, Nat.or_assoc]

/-- The context's kind in its byte: 1 Scan or Tick, 2 Handler or Callback. -/
theorem kind_byte : (0#6 ++ 1#2 : Byte) = 1#8 ∧ (0#6 ++ 2#2 : Byte) = 2#8 := by decide

theorem MainCtx.index_toNat (b : Fin 32) : (0#3 ++ BitVec.ofNat 5 b.val : Byte).toNat = b.val := by
  revert b; decide

theorem State.ctx_fields {s : State} (h : s.Inv) :
    (∀ b, s.main = .scan b → s.ctx.extractLsb' 0 8 = 1#8 ∧ (s.ctx.extractLsb' 8 8).toNat = b.val)
      ∧ (∀ b, s.main = .handler b → s.ctx.extractLsb' 0 8 = 2#8 ∧ (s.ctx.extractLsb' 8 8).toNat = b.val)
      ∧ (s.main = .init → s.ctx.extractLsb' 0 16 = 0#16)
      ∧ (∀ i, s.isr = .tick i → s.ctx.extractLsb' 16 8 = 1#8 ∧ (s.ctx.extractLsb' 24 8).toNat = i)
      ∧ (∀ i, s.isr = .callback i → s.ctx.extractLsb' 16 8 = 2#8 ∧ (s.ctx.extractLsb' 24 8).toNat = i)
      ∧ (s.isr = .none → s.ctx.extractLsb' 16 16 = 0#16) := by
  obtain ⟨-, htick, hcall, -, -, -⟩ := h.context
  obtain ⟨-, hreg, -⟩ := h.pool
  have hn := Config.nTimers_le h.config
  have hisr : s.ctx.extractLsb' 16 8 = 0#6 ++ s.isr.kind := by rw [s.ctx_eq]; exact idField_wordOfBytes ..
  have hisrIdx : s.ctx.extractLsb' 24 8 = s.isr.index := by rw [s.ctx_eq]; exact opcodeOf_wordOfBytes ..
  have hmain : s.ctx.extractLsb' 0 8 = 0#6 ++ s.main.kind := by rw [s.ctx_eq]; exact lowByte_wordOfBytes ..
  have hmainIdx : s.ctx.extractLsb' 8 8 = 0#3 ++ s.main.index := by rw [s.ctx_eq]; exact txField_wordOfBytes ..
  rw [hisr, hisrIdx, hmain, hmainIdx]
  refine ⟨fun b hb => ?_, fun b hb => ?_, fun hm => ?_, fun i hi => ?_, fun i hi => ?_, fun hi => ?_⟩
  · rw [hb]; exact ⟨kind_byte.1, MainCtx.index_toNat b⟩
  · rw [hb]; exact ⟨kind_byte.2, MainCtx.index_toNat b⟩
  · rw [s.ctx_eq, wordOfBytes_eq_halves, hm]; exact lowHalf_append _ _
  · have := htick i hi
    rw [hi]; exact ⟨kind_byte.1, byteOf_toNat (by omega)⟩
  · have := hcall i hi
    rw [hi]; exact ⟨kind_byte.2, byteOf_toNat (by omega)⟩
  · rw [s.ctx_eq, wordOfBytes_eq_halves, hi]; exact highHalf_append _ _

theorem Transport.tstat_fields {c : BusConfig} {x : Transport} (h : x.inv c) (hc : c.rows ≤ 255) :
    x.tstat.extractLsb' 0 2 = x.phase.code
      ∧ x.tstat.getLsbD 2 = x.infl.isSome ∧ x.tstat.extractLsb' 3 5 = 0#5
      ∧ x.tstat.extractLsb' 8 8 = x.infl.getD 0x00#8
      ∧ (x.tstat.extractLsb' 16 8).toNat = x.wr ∧ (x.tstat.extractLsb' 24 8).toNat = x.rd := by
  have hwr := h.shape.wr_lt
  have hrd := h.shape.rd_lt
  unfold Transport.tstat
  refine ⟨?phase, ?inFlight, ?zero, ?byte, ?wr, ?rd⟩
  case inFlight => simp only [BitVec.getLsbD_append, bit_getLsbD_zero, Nat.reduceLT, Nat.reduceSub, if_true, if_false]
  all_goals
    simp (disch := decide) only [BitVec.extractLsb'_append_eq_of_le, BitVec.extractLsb'_append_eq_of_add_le,
      BitVec.extractLsb'_eq_self, Nat.reduceSub]
  case wr => exact byteOf_toNat (by omega)
  case rd => exact byteOf_toNat (by omega)

/-- The cursors of a row fit a byte (10_state R55). -/
theorem Transport.inv.cursors_le {c : BusConfig} {x : Transport} (h : x.inv c) : x.txIdx ≤ 255 ∧ x.rxIdx ≤ 255 := by
  have htx := (x.row x.rd).txLen.isLt
  have hrx := (x.row x.rd).rxLen.isLt
  cases hp : x.phase with
  | idle =>
    obtain ⟨-, hidle, -⟩ := h
    obtain ⟨h1, h2⟩ := hidle hp
    omega
  | sending =>
    obtain ⟨-, h1, h2⟩ := h.sending hp
    omega
  | receiving =>
    obtain ⟨h1, h2⟩ := h.receiving hp
    omega

theorem Transport.tcur_fields {c : BusConfig} {x : Transport} (h : x.inv c) :
    (x.tcur.extractLsb' 0 8).toNat = x.txIdx ∧ (x.tcur.extractLsb' 8 8).toNat = x.rxIdx
      ∧ x.tcur.extractLsb' 16 8 = x.rxData ∧ x.tcur.extractLsb' 24 8 = 0#8 := by
  obtain ⟨htx, hrx⟩ := h.cursors_le
  have hw : x.tcur = wordOfBytes 0#8 x.rxData (byteOf x.rxIdx) (byteOf x.txIdx) := rfl
  rw [hw]
  refine ⟨?_, ?_, idField_wordOfBytes .., opcodeOf_wordOfBytes ..⟩
  · exact (congrArg BitVec.toNat (lowByte_wordOfBytes ..)).trans (byteOf_toNat htx)
  · exact (congrArg BitVec.toNat (txField_wordOfBytes ..)).trans (byteOf_toNat hrx)

theorem Slot.status_fields (w : Slot) :
    w.status.getLsbD 0 = w.reg ∧ w.status.getLsbD 1 = w.run ∧ w.status.extractLsb' 2 6 = 0#6
      ∧ w.status.extractLsb' 8 8 = w.id ∧ w.status.extractLsb' 16 8 = w.cb ∧ w.status.extractLsb' 24 8 = 0#8 := by
  unfold Slot.status
  refine ⟨?reg, ?run, ?zero, ?id, ?cb, ?high⟩
  case reg => simp only [BitVec.getLsbD_append, bit_getLsbD_zero, Nat.reduceLT, if_true]
  case run => simp only [BitVec.getLsbD_append, bit_getLsbD_zero, Nat.reduceLT, Nat.reduceSub, if_true, if_false]
  all_goals
    simp (disch := decide) only [BitVec.extractLsb'_append_eq_of_le, BitVec.extractLsb'_append_eq_of_add_le,
      BitVec.extractLsb'_eq_self, Nat.reduceSub]

/-! ## The numbering -/

theorem State.sr_of_slot {s : State} {n i : Nat} (h : 0x100 ≤ n) (hn : (n - 0x100) / 2 = i) (hi : i < s.cfg.nTimers) :
    s.sr n = some (if (n - 0x100) % 2 = 0 then (s.slot i).status else (s.slot i).counters) := by
  unfold State.sr
  iterate 12 rw [if_neg (by omega)]
  rw [if_pos ⟨h, hn ▸ hi⟩, hn]
  split <;> rfl

theorem State.sr_slot (s : State) {i : Nat} (h : i < s.cfg.nTimers) :
    s.sr (0x100 + 2 * i) = some (s.slot i).status ∧ s.sr (0x101 + 2 * i) = some (s.slot i).counters := by
  have heven := State.sr_of_slot (n := 0x100 + 2 * i) (by omega) (by omega) h
  have hodd := State.sr_of_slot (n := 0x101 + 2 * i) (by omega) (by omega) h
  rw [if_pos (by omega)] at heven
  rw [if_neg (by omega)] at hodd
  exact ⟨heven, hodd⟩

/-- Settles O60. -/
theorem stateRegisterLayout : Obligations.StateRegisterLayout := by
  intro s h
  obtain ⟨-, hreg, -⟩ := h.pool
  have hn := Config.nTimers_le h.config
  refine ⟨rfl, ⟨_, rfl, s.ctrl_fields⟩, ⟨_, rfl, lowHalf_append _ _, highHalf_append _ _⟩, ⟨_, rfl, ?_⟩,
    ⟨_, rfl, State.ctx_fields h⟩, ⟨_, rfl, s.fault.bits_fields⟩, ⟨_, rfl, lowHalf_append _ _, highHalf_append _ _⟩,
    ⟨_, rfl, lowHalf_append _ _, highHalf_append _ _⟩, fun t => ?_, fun i hi => ?_⟩
  · rw [BitVec.toNat_append, byteOf_toNat (by omega)]; simp
  · obtain ⟨-, hrows, -⟩ := (BusConfig.inRange_iff _).mp (Config.bus_inRange h.config t)
    obtain ⟨hphase, hinfl, hzero, hbyte, hwr, hrd⟩ := Transport.tstat_fields (h.ring t) hrows
    refine ⟨(s.xport t).tstat, (s.xport t).tcur, by cases t <;> rfl, by cases t <;> rfl, ?_, hinfl, hzero, hbyte, hwr, hrd,
      Transport.tcur_fields (h.ring t)⟩
    rw [hphase]
    cases (s.xport t).phase <;> rfl
  · obtain ⟨hs, hc⟩ := s.sr_slot hi
    obtain ⟨h1, h2, h3, h4, h5, h6⟩ := (s.slot i).status_fields
    exact ⟨_, _, hs, hc, h1, h2, h3, h4, h5, h6, lowHalf_append _ _, highHalf_append _ _⟩

end Sys2Proof.Machine
end

section
/-! No step reads the trace or data memory (10_state R57, R58; 20_memory R85): every operation commutes with putting
entries before the trace and changing what data memory holds. -/

namespace Sys2Proof.Machine

/-- The state with the entries `pre` before its trace and data memory changed by F. -/
def State.recast (F : Memory → Memory) (pre : List TraceEntry) (s : State) : State :=
  { s with dm := F s.dm, trace := pre ++ s.trace }

/-- The answer with its next state changed; a fault and a refusal stay. -/
def mapNext (f : State → State) : Answer → Answer
  | .next s => .next (f s)
  | .fault r => .fault r
  | .refused r => .refused r

/-- The end of an ISR body with its state changed, at the return or at the raise. -/
def mapEnd (f : State → State) : Except State State → Except State State
  | .ok s => .ok (f s)
  | .error s => .error (f s)

variable (F : Memory → Memory) (pre : List TraceEntry)

/-! ## What an operation reads -/

@[simp] theorem State.recast_cfg (s : State) : (s.recast F pre).cfg = s.cfg := rfl
@[simp] theorem State.recast_ie (s : State) : (s.recast F pre).ie = s.ie := rfl
@[simp] theorem State.recast_nreg (s : State) : (s.recast F pre).nreg = s.nreg := rfl
@[simp] theorem State.recast_main (s : State) : (s.recast F pre).main = s.main := rfl
@[simp] theorem State.recast_isr (s : State) : (s.recast F pre).isr = s.isr := rfl
@[simp] theorem State.recast_fault (s : State) : (s.recast F pre).fault = s.fault := rfl
@[simp] theorem State.recast_program (s : State) : (s.recast F pre).program = s.program := rfl
@[simp] theorem State.recast_moves (s : State) : (s.recast F pre).moves = s.moves := rfl
@[simp] theorem State.recast_slot (s : State) (i : Nat) : (s.recast F pre).slot i = s.slot i := rfl
@[simp] theorem State.recast_counts (s : State) (i : Nat) : (s.recast F pre).counts i = s.counts i := rfl
@[simp] theorem State.recast_find (s : State) (id : Byte) : (s.recast F pre).find id = s.find id := rfl
@[simp] theorem State.recast_unmapped (s : State) (m : Word) : (s.recast F pre).unmapped m = s.unmapped m := rfl
@[simp] theorem State.recast_eventReady (s : State) (b : Fin 32) :
    (s.recast F pre).eventReady b = s.eventReady b := rfl
@[simp] theorem State.recast_nextOp (s : State) : (s.recast F pre).nextOp = s.nextOp := rfl

@[simp] theorem State.recast_xport (s : State) (t : Bus) : (s.recast F pre).xport t = s.xport t := by cases t <;> rfl

@[simp] theorem State.recast_currentRow (s : State) (t : Bus) : (s.recast F pre).currentRow t = s.currentRow t := by
  cases t <;> rfl

@[simp] theorem State.recast_allows (s : State) (m : Move) : (s.recast F pre).allows m = s.allows m := by
  have hready : ∀ g, (s.recast F pre).ready g = s.ready g := fun g => by
    cases g with
    | irq src =>
      cases src with
      | tick => rfl
      | bc t => cases t <;> rfl
    | per t => cases t <;> rfl
    | sw => rfl
    | disp => rfl
    | tseq => rfl
    | ticksrc => rfl
  cases m <;> simp only [State.allows, hready, State.recast_program]

/-! ## What an operation writes -/

@[simp] theorem State.emit_recast (s : State) (e : TraceEntry) :
    (s.recast F pre).emit e = (s.emit e).recast F pre := by
  simp [State.recast, State.emit]

@[simp] theorem State.finish_recast (s : State) (op : OpName) (st : Status) (v : Half) :
    (s.recast F pre).finish op st v = (s.finish op st v).recast F pre :=
  s.emit_recast F pre _

@[simp] theorem State.raiseFault_recast (s : State) (f : FaultInfo) :
    (s.recast F pre).raiseFault f = (s.raiseFault f).recast F pre := by
  simp [State.recast, State.raiseFault, State.emit]

@[simp] theorem State.count_recast (s : State) (m : Metric) : (s.recast F pre).count m = (s.count m).recast F pre := rfl

@[simp] theorem State.orEvents_recast (s : State) (m : Word) :
    (s.recast F pre).orEvents m = (s.orEvents m).recast F pre := rfl

@[simp] theorem State.clearEvent_recast (s : State) (b : Fin 32) :
    (s.recast F pre).clearEvent b = (s.clearEvent b).recast F pre := rfl

@[simp] theorem State.setSlot_recast (s : State) (i : Nat) (w : Slot) :
    (s.recast F pre).setSlot i w = (s.setSlot i w).recast F pre := rfl

@[simp] theorem State.modXport_recast (s : State) (t : Bus) (f : Transport → Transport) :
    (s.recast F pre).modXport t f = (s.modXport t f).recast F pre := by
  cases t <;> rfl

@[simp] theorem State.load_recast (s : State) (t : Bus) (x : Byte) :
    (s.recast F pre).load t x = (s.load t x).recast F pre := by
  simp [State.load]

@[simp] theorem State.setPhase_recast (s : State) (t : Bus) (p : Phase) (tx rx : Nat) :
    (s.recast F pre).setPhase t p tx rx = (s.setPhase t p tx rx).recast F pre :=
  s.modXport_recast F pre t _

@[simp] theorem State.appendRow_recast (s : State) (t : Bus) (bs : List Byte) (ds : List Addr) :
    (s.recast F pre).appendRow t bs ds = (s.appendRow t bs ds).recast F pre :=
  s.modXport_recast F pre t _

@[simp] theorem State.completeRow_recast (s : State) (t : Bus) :
    (s.recast F pre).completeRow t = (s.completeRow t).recast F pre := by
  cases t <;> rfl

@[simp] theorem State.startRow_recast (s : State) (t : Bus) :
    (s.recast F pre).startRow t = (s.startRow t).recast F pre := by
  refine State.startRow_induction t (P := fun s s' => (s.recast F pre).startRow t = s'.recast F pre) ?idle ?sending
    ?receiving ?again s
  case idle =>
    intro s he
    rw [State.startRow_eq, State.recast_xport, if_pos he, State.setPhase_recast]
  case sending =>
    intro s hne htx
    rw [State.startRow_eq, State.recast_xport, if_neg hne, if_pos htx, State.setPhase_recast, State.load_recast]
  case receiving =>
    intro s htx hrx
    rw [State.startRow_eq, State.recast_xport, if_neg (by simp [htx, emptyLen]), if_neg (by simp [htx]), if_pos hrx,
      State.setPhase_recast, State.recast_cfg, State.load_recast]
  case again =>
    intro s htx hrx ih
    rw [State.startRow_eq, State.recast_xport, if_neg (by simp [htx, emptyLen]), if_neg (by simp [htx]),
      if_neg (by simp [hrx]), State.completeRow_recast, ih]

@[simp] theorem State.nextRow_recast (s : State) (t : Bus) :
    (s.recast F pre).nextRow t = (s.nextRow t).recast F pre := by
  simp [State.nextRow]

@[simp] theorem State.bcSending_recast (s : State) (t : Bus) :
    (s.recast F pre).bcSending t = (s.bcSending t).recast F pre := by
  simp only [State.bcSending, State.recast_currentRow, State.recast_xport, State.recast_cfg, State.load_recast,
    State.modXport_recast, State.nextRow_recast]
  split
  · rfl
  · split <;> rfl

@[simp] theorem State.advance_recast (s : State) : (s.recast F pre).advance = s.advance.recast F pre := by
  simp only [State.advance, State.recast_isr]
  split <;> rfl

@[simp] theorem State.illegal_recast (s : State) : (s.recast F pre).illegal = s.illegal.recast F pre :=
  s.finish_recast F pre ..

@[simp] theorem State.enterInterrupt_recast (s : State) (src : IrqSource) :
    (s.recast F pre).enterInterrupt src = (s.enterInterrupt src).recast F pre := by
  cases src with
  | tick => rfl
  | bc t => cases t <;> rfl

@[simp] theorem State.scanBit_recast (s : State) (b : Fin 32) :
    (s.recast F pre).scanBit b = (s.scanBit b).recast F pre := by
  simp only [State.scanBit, State.recast_eventReady, State.clearEvent_recast, State.recast_cfg, State.emit_recast]
  split <;> rfl

@[simp] theorem State.tickScan_recast (s : State) (i : Nat) :
    (s.recast F pre).tickScan i = (s.tickScan i).recast F pre := by
  simp only [State.tickScan, State.tickSlot, State.recast_cfg, State.recast_counts, State.recast_slot,
    State.setSlot_recast, State.emit_recast]
  split
  · split
    · split <;> rfl
    · rfl
  · rfl

/-! ## The instructions -/

/-- No instruction reads or writes data memory, and none reads the trace. -/
theorem exec_recast (i : Instr) (s : State) :
    exec i (s.recast F pre) = mapNext (State.recast F pre) (exec i s) := by
  cases i with
  | register id cb =>
    simp only [exec, execRegister, State.recast_find, State.recast_nreg, State.recast_cfg, State.count_recast,
      State.setSlot_recast, State.finish_recast]
    split
    · rfl
    · split
      · rfl
      · exact congrArg Host.Outcome.next (State.finish_recast F pre
          { s.setSlot s.nreg ⟨true, id, cb, false, 0#16, 0#16⟩ with nreg := s.nreg + 1 } .register .ok 0#16)
  | start id dur =>
    simp only [exec, execStart, State.recast_find, State.recast_slot, State.setSlot_recast, State.finish_recast]
    split <;> rfl
  | stop id =>
    simp only [exec, execStop, State.recast_find, State.recast_slot, State.setSlot_recast, State.finish_recast]
    split <;> rfl
  | elapsed id =>
    simp only [exec, execElapsed, State.recast_find, State.recast_slot, State.finish_recast]
    split <;> rfl
  | post mask =>
    simp only [exec, execPost, State.recast_unmapped, State.raiseFault_recast, State.orEvents_recast,
      State.finish_recast]
    split <;> rfl
  | enq t payload dests =>
    simp only [exec, execEnq, State.recast_cfg, State.recast_xport, State.count_recast, State.appendRow_recast,
      State.startRow_recast, State.finish_recast]
    split
    · rfl
    · split
      · rfl
      · split <;> exact congrArg Host.Outcome.next (State.finish_recast F pre _ ..)
  | ret =>
    simp only [exec, execRet, State.recast_isr, State.recast_main, State.recast_ie, State.raiseFault_recast]
    split
    · rfl
    · rfl
    · split <;> rfl
    · rfl
    · rfl
  | csenter => exact congrArg Host.Outcome.next (State.finish_recast F pre { s with ie := false } ..)
  | csexit v =>
    simp only [exec, execCsexit, State.recast_isr, State.finish_recast]
    split
    · rfl
    · exact congrArg Host.Outcome.next (State.finish_recast F pre { s with ie := v } ..)
  | rdmetric sel => exact congrArg Host.Outcome.next (State.finish_recast F pre s ..)
  | tick => rfl
  | bytedone t v =>
    simp only [exec, execBytedone, State.recast_xport, State.modXport_recast, State.emit_recast]
    split <;> rfl

theorem State.issue_recast (p : OpWords) (s : State) :
    (s.recast F pre).issue p = mapNext (State.recast F pre) (s.issue p) := by
  simp only [State.issue, exec_recast, State.illegal_recast]
  split <;> rfl

/-! ## The byte-complete ISR, which writes data memory -/

/-- The write is the same, and what data memory holds afterwards is changed by some F'. -/
theorem State.memWrite_recast (a : Addr) (v : Byte) (s : State) :
    ∃ F', (F = id → F' = id) ∧ (s.recast F pre).memWrite a v = mapEnd (State.recast F' pre) (s.memWrite a v) := by
  by_cases hd : s.cfg.destOk a = true
  · obtain ⟨F', hid, hF⟩ : ∃ F', (F = id → F' = id) ∧
        F' (Memory.write s.dm a.toNat v) = Memory.write (F s.dm) a.toNat v := by
      by_cases h : F = id
      · exact ⟨id, fun _ => rfl, by rw [h]; rfl⟩
      · exact ⟨fun _ => Memory.write (F s.dm) a.toNat v, fun h' => absurd h' h, rfl⟩
    exact ⟨F', hid, by simp [State.memWrite, mapEnd, hd, State.emit, State.recast, hF]⟩
  · exact ⟨F, fun h => h, by simp [State.memWrite, mapEnd, hd]⟩

theorem State.bcReceiving_recast (t : Bus) (s : State) :
    ∃ F', (F = id → F' = id) ∧ (s.recast F pre).bcReceiving t = mapEnd (State.recast F' pre) (s.bcReceiving t) := by
  obtain ⟨F', hid, hm⟩ := State.memWrite_recast F pre ((s.currentRow t).destAt (s.xport t).rxIdx) (s.xport t).rxData s
  refine ⟨F', hid, ?_⟩
  simp only [State.bcReceiving, State.recast_currentRow, State.recast_xport, State.recast_cfg, hm]
  cases s.memWrite ((s.currentRow t).destAt (s.xport t).rxIdx) (s.xport t).rxData with
  | error u => rfl
  | ok u =>
    simp only [mapEnd, State.modXport_recast, State.load_recast, State.nextRow_recast]
    split <;> rfl

theorem State.bcBody_recast (t : Bus) (s : State) :
    ∃ F', (F = id → F' = id) ∧ (s.recast F pre).bcBody t = mapEnd (State.recast F' pre) (s.bcBody t) := by
  simp only [State.bcBody, State.recast_xport]
  cases (s.xport t).phase with
  | sending => exact ⟨F, fun h => h, congrArg Except.ok (s.bcSending_recast F pre t)⟩
  | receiving => exact State.bcReceiving_recast F pre t s
  | idle => exact ⟨F, fun h => h, rfl⟩

theorem State.byteComplete_recast (t : Bus) (s : State) :
    ∃ F', (F = id → F' = id) ∧ (s.recast F pre).byteComplete t = (s.byteComplete t).recast F' pre := by
  obtain ⟨F', hid, hb⟩ := State.bcBody_recast F pre t (s.enterInterrupt (.bc t))
  refine ⟨F', hid, ?_⟩
  simp only [State.byteComplete, State.enterInterrupt_recast, hb]
  cases (s.enterInterrupt (.bc t)).bcBody t <;> rfl

/-! ## The step -/

/-- A move other than the reset, on the changed state. -/
theorem State.perform_recast {m : Move} (hm : m.isReset = false) (s : State) :
    ∃ F', (F = id → F' = id) ∧
      (s.recast F pre).perform m = mapNext (State.recast F' pre) (s.perform m) := by
  cases m with
  | software p => exact ⟨F, fun h => h, s.issue_recast F pre p⟩
  | routine =>
    refine ⟨F, fun h => h, ?_⟩
    simp only [State.perform, State.issueNext, State.recast_nextOp, State.advance_recast, State.issue_recast]
    split <;> rfl
  | dispatcher =>
    refine ⟨F, fun h => h, ?_⟩
    simp only [State.perform, State.dispatcherStep, State.recast_main, State.scanBit_recast]
    split <;> rfl
  | interrupt src =>
    cases src with
    | tick => exact ⟨F, fun h => h, rfl⟩
    | bc t =>
      obtain ⟨F', hid, hb⟩ := State.byteComplete_recast F pre t s
      exact ⟨F', hid, congrArg Host.Outcome.next hb⟩
  | tickScan =>
    refine ⟨F, fun h => h, ?_⟩
    simp only [State.perform, State.tickScanStep, State.recast_isr, State.tickScan_recast]
    split <;> rfl
  | event w =>
    refine ⟨F, fun h => h, ?_⟩
    simp only [State.perform, State.eventStep, exec_recast]
    split <;> rfl
  | externalWrite a v =>
    by_cases h : F = id
    · exact ⟨id, fun _ => rfl, by rw [h]; rfl⟩
    · exact ⟨fun _ => Memory.write (F s.dm) a.toNat v, fun h' => absurd h' h, rfl⟩
  | externalReset launch => cases hm

theorem State.take_recast {m : Move} (hm : m.isReset = false) (s : State) :
    ∃ F', (F = id → F' = id) ∧ (s.recast F pre).take m = mapNext (State.recast F' pre) (s.take m) := by
  obtain ⟨F', hid, hp⟩ := State.perform_recast F pre hm s
  refine ⟨F', hid, ?_⟩
  simp only [State.take, State.recast_fault, State.recast_allows, hp]
  split
  · rfl
  · split <;> rfl

/-- A step other than the reset, on the changed state: the same answer, and the next state changed. -/
theorem step_recast {s : State} (hs : ∀ launch rest, s.moves ≠ .externalReset launch :: rest) :
    ∃ F', (F = id → F' = id) ∧ step (s.recast F pre) = mapNext (State.recast F' pre) (step s) := by
  by_cases hc : s.cfg.wf = true
  · cases hm : s.moves with
    | nil =>
      refine ⟨F, fun h => h, ?_⟩
      cases hf : s.fault.any <;> simp [step, State.next, mapNext, hc, hm, hf]
    | cons m rest =>
      have hr : m.isReset = false := (Move.isReset_eq_false_iff m).mpr (by rintro launch rfl; exact hs _ _ hm)
      obtain ⟨F', hid, ht⟩ := State.take_recast F pre hr (s.withMoves rest)
      refine ⟨F', hid, ?_⟩
      rw [step_eq hc hm]
      exact (step_eq (s := s.recast F pre) hc hm).trans ht
  · exact ⟨F, fun h => h, by simp [step, State.next, hc, mapNext]⟩

end Sys2Proof.Machine
end

section
/-! The trace and data memory, from the step on a changed state. -/

namespace Sys2Proof.Machine

theorem mapNext_eq_next {f : State → State} {x : Answer} {s' : State} (h : mapNext f x = .next s') :
    ∃ u, x = .next u ∧ s' = f u := by
  cases x with
  | next u => cases h; exact ⟨u, rfl, rfl⟩
  | fault r => cases h
  | refused r => cases h

/-- Settles O13: the step from the state with an empty trace, the trace put before. -/
theorem traceIsAppendedAndNeverRead : Obligations.TraceIsAppendedAndNeverRead := by
  intro s s' h hs
  have hrecast : ∀ tr, ({ s with trace := tr } : State) = State.recast id tr { s with trace := [] } := fun tr => by
    simp [State.recast]
  have hstep : ∀ tr, step { s with trace := tr } = mapNext (State.recast id tr) (step { s with trace := [] }) := by
    intro tr
    obtain ⟨F', hid, hst⟩ := step_recast id tr (s := { s with trace := [] }) hs
    rw [hrecast tr, hst, hid rfl]
  obtain ⟨u, hu, rfl⟩ := mapNext_eq_next ((hstep s.trace).symm.trans h)
  refine ⟨u.trace, rfl, fun tr => ?_⟩
  rw [hstep tr, hu]
  rfl

/-- The reset from outside reads no data memory (10_state R59). -/
theorem step_withDm_of_reset {s : State} {launch : List (Addr × Byte)} {rest : List Move}
    (hm : s.moves = .externalReset launch :: rest) (m : Memory) : step { s with dm := m } = step s := by
  simp only [step, State.next, hm]
  rfl

/-- Settles O14: the step from the state whose data memory is replaced. -/
theorem dataMemoryIsNeverRead : Obligations.DataMemoryIsNeverRead := by
  intro s m
  by_cases hs : ∃ launch rest, s.moves = .externalReset launch :: rest
  · obtain ⟨launch, rest, hm⟩ := hs
    rw [step_withDm_of_reset hm m]
    split
    · next s' hx => exact ⟨s'.dm, hx⟩
    · next hx => exact hx
    · next hx => exact hx
  · push Not at hs
    obtain ⟨F', -, hst⟩ := step_recast (fun _ => m) [] hs
    have hdm : ({ s with dm := m } : State) = s.recast (fun _ => m) [] := rfl
    rw [hdm, hst]
    split
    · next s' hx => exact ⟨F' s'.dm, by rw [hx]; rfl⟩
    · next hx => rw [hx]; rfl
    · next hx => rw [hx]; rfl

end Sys2Proof.Machine
end

section
/-! What writes data memory (20_memory R80, R85, R88): the byte-complete ISR in phase Receiving, and software outside the
block. -/

namespace Sys2Proof.Machine

/-! ## What leaves data memory unchanged -/

/-- No instruction writes data memory (20_memory R85): it commutes with putting back what the memory held. -/
theorem exec_dm {i : Instr} {s s' : State} (h : exec i s = .next s') : s'.dm = s.dm := by
  have hback : exec i s = mapNext (State.recast (fun _ => s.dm) []) (exec i s) := exec_recast (fun _ => s.dm) [] i s
  obtain ⟨u, -, rfl⟩ := mapNext_eq_next (hback.symm.trans h)
  rfl

theorem State.scanBit_dm (s : State) (b : Fin 32) : (s.scanBit b).dm = s.dm :=
  (congrArg State.dm (s.scanBit_recast (fun _ => s.dm) [] b) :)

theorem State.tickScan_dm (s : State) (i : Nat) : (s.tickScan i).dm = s.dm :=
  (congrArg State.dm (s.tickScan_recast (fun _ => s.dm) [] i) :)

/-! ## The byte-complete ISR -/

/-- `dest[rx_idx]` of the row in exchange (42_transport R201). -/
abbrev State.destination (s : State) (t : Bus) : Addr := (s.currentRow t).destAt (s.xport t).rxIdx

/-- The received byte is stored at its valid destination and reported (42_transport R201, 20_memory R80). -/
structure State.StoredReceived (t : Bus) (s s' : State) : Prop where
  receiving : (s.xport t).phase = .receiving
  valid : s.cfg.destOk (s.destination t) = true
  dm : s'.dm = Memory.write s.dm (s.destination t).toNat (s.xport t).rxData
  trace : s.trace ++ [.mem (s.destination t) (s.xport t).rxData] <+: s'.trace

/-- The body writes data memory in phase Receiving alone, and not when it ends at the raise (42_transport R199-R202). -/
theorem State.bcBody_dm (t : Bus) (s : State) :
    (∃ u, s.bcBody t = .error u ∧ u.dm = s.dm) ∨
      ∃ u, s.bcBody t = .ok u ∧ (u.dm = s.dm ∨ s.StoredReceived t u) := by
  unfold State.bcBody
  split
  · exact .inr ⟨_, rfl, .inl (s.bcSending_kept t).dm⟩
  · next hrecv =>
    rcases s.bcReceiving_cases t with ⟨-, hx⟩ | ⟨hvalid, u, hx, hk⟩
    · exact .inl ⟨_, hx, s.raiseFault_dm _⟩
    · exact .inr ⟨u, hx, .inr ⟨hrecv, hvalid, hk.dm, hk.trace⟩⟩
  · exact .inr ⟨s, rfl, .inl rfl⟩

/-- Entry and return write neither the row in exchange nor data memory (60_exceptions R262, R263). -/
theorem State.StoredReceived.returned {t : Bus} {s u : State} (h : (s.enterInterrupt (.bc t)).StoredReceived t u) :
    s.StoredReceived t u.returnInterrupt := by
  obtain ⟨hrecv, hvalid, hdm, htrace⟩ := h
  cases t <;> exact ⟨hrecv, hvalid, hdm, htrace⟩

theorem State.byteComplete_dm (t : Bus) (s : State) :
    (s.byteComplete t).dm = s.dm ∨ s.StoredReceived t (s.byteComplete t) := by
  have henter := s.enterInterrupt_dm (.bc t)
  unfold State.byteComplete
  rcases (s.enterInterrupt (.bc t)).bcBody_dm t with ⟨u, hb, hu⟩ | ⟨u, hb, hu | hu⟩ <;> rw [hb]
  · exact .inl (hu.trans henter)
  · exact .inl (hu.trans henter)
  · exact .inr hu.returned

/-! ## The step -/

/-- Who writes data memory in a move that is taken, and what it writes (20_memory R80, R88). -/
theorem State.Took.dm {s s' : State} {m : Move} (h : s.Took m s') (hr : m.isReset = false) :
    s'.dm = s.dm
      ∨ (∃ b v, m = .externalWrite b v ∧ s'.dm = Memory.write s.dm b.toNat v)
      ∨ ∃ t, m = .interrupt (.bc t) ∧ s.StoredReceived t s' := by
  cases h with
  | operation s hp hr hd hx => exact .inl (exec_dm hx)
  | illegal s hp hr hd => exact .inl rfl
  | routine s hr hn hd hx => exact .inl ((exec_dm hx).trans s.advance_dm)
  | routineIllegal s hr hn hd => exact .inl s.advance_dm
  | scan s b hi hm => exact .inl (s.scanBit_dm b)
  | tickEntry s hi hie hp => exact .inl rfl
  | byteComplete s t hi hie hp => exact (s.byteComplete_dm t).imp_right fun hst => .inr ⟨t, rfl, hst⟩
  | tickScan s i hi => exact .inl (s.tickScan_dm i)
  | tick s hd => exact .inl rfl
  | bytedone s t v hd hi => exact .inl (State.modXport_dm ..)
  | externalWrite s a v => exact .inr (.inl ⟨a, v, rfl, rfl⟩)
  | externalReset s launch => cases hr

/-- A write changes what is read at its own address alone. -/
theorem Memory.eq_of_read_write_ne {m : Memory} {a b : Nat} {v : Byte}
    (h : Memory.read (Memory.write m a v) b ≠ Memory.read m b) : b = a :=
  not_imp_comm.mp (Memory.read_write_other m v) h

/-- Settles O45: the writers of data memory, and the address at which a write can change the byte that is read. -/
theorem dataMemoryChangesOnlyAtDestinations : Obligations.DataMemoryChangesOnlyAtDestinations := by
  intro s s' m rest a hm hr hs hne
  obtain ⟨hc, -⟩ := step_inv hs
  rw [step_eq hc hm] at hs
  unfold State.readByte at hne ⊢
  rcases (State.took_of_take hs).2.dm hr with hdm | ⟨b, v, rfl, hdm⟩ | ⟨t, rfl, hrecv, hvalid, hdm, r, htrace⟩
  · exact absurd (congrArg (Memory.read · a) hdm) hne
  · rw [hdm] at hne ⊢
    obtain rfl := Memory.eq_of_read_write_ne hne
    exact .inl ⟨b, v, rfl, rfl, Memory.read_write_same ..⟩
  · rw [hdm] at hne ⊢
    obtain rfl := Memory.eq_of_read_write_ne hne
    refine .inr ⟨t, rfl, hrecv, rfl, hvalid, Memory.read_write_same .., ?_⟩
    rw [← htrace, List.append_assoc, List.drop_left]
    exact List.mem_cons_self

end Sys2Proof.Machine
end

section
/-! The decoders against the encoder (30_encoding R100-R112, R114): no encoding sets a reserved bit, decoding undoes
encoding, and what is decoded is its own encoding. -/

namespace Sys2Proof

open Laws

/-! ## An encoding lies in its row of the opcode table -/

theorem encode_inRow (i : Instr) : EncodeRow.Statement i := by
  cases i with
  | register id cb => exact EncodeRow.register id cb
  | start id dur => exact EncodeRow.start id dur
  | stop id => exact EncodeRow.stop id
  | elapsed id => exact EncodeRow.elapsed id
  | post mask => exact EncodeRow.post mask
  | enq t payload dests => exact EncodeRow.enq t payload dests
  | ret => exact EncodeRow.ret
  | csenter => exact EncodeRow.csenter
  | csexit s => exact EncodeRow.csexit s
  | rdmetric sel => exact EncodeRow.rdmetric sel
  | tick => exact EncodeRow.tick
  | bytedone t v => exact EncodeRow.bytedone t v

/-- Every row fixes the whole opcode. -/
theorem opcodeOf_encode {i : Instr} (h : i.wf = true) : opcodeOf (encode i).word = opcodeOf (EncodeRow.rowMatch i) := by
  have hmask : (EncodeRow.rowMask i).extractLsb' 24 8 = BitVec.allOnes 8 := by
    cases i <;> simp only [EncodeRow.rowMask] <;> decide
  have hrow := congrArg opcodeOf (encode_inRow i h).1
  rwa [opcodeOf, BitVec.extractLsb'_and, hmask, BitVec.and_allOnes] at hrow

/-- The reserved bits of an operation are those its row fixes below the opcode (30_encoding R102, R103). -/
theorem reservedBits_rowMatch {i : Instr} (h : i.isEvent = false) :
    reservedBits (opcodeOf (EncodeRow.rowMatch i)) = some (EncodeRow.rowMask i &&& 0x00FFFFFF#32) := by
  cases i with
  | tick => cases h
  | bytedone t v => cases h
  | _ => simp only [EncodeRow.rowMatch, EncodeRow.rowMask]; decide

/-- No encoding sets a reserved bit (30_encoding R111). -/
theorem encode_reserved {i : Instr} (h : i.wf = true) :
    (encode i).word &&& (EncodeRow.rowMask i &&& 0x00FFFFFF#32) = 0#32 := by
  rw [← BitVec.and_assoc, (encode_inRow i h).1]
  cases i <;> simp only [EncodeRow.rowMatch] <;> decide

/-! ## Decoding an encoding -/

/-- The checks that precede the reading of the fields (30_encoding R110). -/
theorem decodeOp_eq_ok_iff {p : OpWords} {i : Instr} :
    decodeOp p = .ok i ↔ ∃ r, reservedBits (opcodeOf p.word) = some r ∧ p.word &&& r = 0#32
      ∧ p.operands.length = operandCount p.word ∧ decodeFields p.word p.operands = .ok i := by
  unfold decodeOp
  cases reservedBits (opcodeOf p.word) with
  | none => split_ifs <;> simp
  | some r =>
    by_cases hr : p.word &&& r = 0#32 <;> by_cases hn : p.operands.length = operandCount p.word <;> simp [hr, hn]

/-- `ENQ`'s operands are read back from its lengths and its packed words (30_encoding R105, R107, R108). -/
theorem decodeEnq_encode {t : Bus} {payload : List Byte} {dests : List Addr}
    (h : (Instr.enq t payload dests).wf = true) :
    decodeEnq (encode (.enq t payload dests)).word (encode (.enq t payload dests)).operands =
      .ok (.enq t payload dests) := by
  simp only [Instr.wf, Bool.and_eq_true, decide_eq_true_eq] at h
  have hx : (txField (encode (.enq t payload dests)).word).toNat = payload.length := by
    simp only [encode, txField_wordOfBytes, BitVec.toNat_ofNat]
    omega
  have hbus : busField (encode (.enq t payload dests)).word = t := busField_busByte ..
  rw [decodeEnq, hx, hbus]
  simp only [encode, drop_packPayload, lanesClear_packPayload, destsClear_packDests, unpackPayload_packPayload,
    unpackDests_packDests, if_true]

theorem decodeFields_encode {i : Instr} (h : i.wf = true) (hop : i.isEvent = false) :
    decodeFields (encode i).word (encode i).operands = .ok i := by
  cases i with
  | register id cb => simp [decodeFields, encode]
  | start id dur =>
    have hid : idField (encode (.start id dur)).word = id :=
      (congrArg idField (start_word_eq id dur)).trans (idField_wordOfBytes ..)
    have hopc : opcodeOf (encode (.start id dur)).word = 0x02#8 :=
      (congrArg opcodeOf (start_word_eq id dur)).trans (opcodeOf_wordOfBytes ..)
    have hdur : lowHalf (encode (.start id dur)).word = dur := lowHalf_append (0x02#8 ++ id) dur
    simp [decodeFields, hopc, hid, hdur]
  | stop id => simp [decodeFields, encode]
  | elapsed id => simp [decodeFields, encode]
  | post mask => simp [decodeFields, encode, opcodeOf]
  | enq t payload dests =>
    have hopc : opcodeOf (encode (.enq t payload dests)).word = 0x20#8 := opcodeOf_wordOfBytes ..
    simp [decodeFields, hopc, decodeEnq_encode h]
  | ret => rfl
  | csenter => rfl
  | csexit s => cases s <;> rfl
  | rdmetric sel => revert sel; decide
  | tick => cases hop
  | bytedone t v => cases hop

theorem decodeOp_encode {i : Instr} (h : i.wf = true) (hop : i.isEvent = false) : decodeOp (encode i) = .ok i :=
  decodeOp_eq_ok_iff.mpr ⟨_, by rw [opcodeOf_encode h, reservedBits_rowMatch hop], encode_reserved h,
    (encode_inRow i h).2, decodeFields_encode h hop⟩

theorem decodeEvent_encode {i : Instr} (hev : i.isEvent = true) : decodeEvent (encode i).word = .ok i := by
  cases i with
  | tick => rfl
  | bytedone t v =>
    have hopc : opcodeOf (encode (.bytedone t v)).word = 0xE1#8 := opcodeOf_wordOfBytes ..
    have htick : (encode (.bytedone t v)).word ≠ 0xE0000000#32 := fun h => by
      rw [h] at hopc
      exact absurd hopc (by decide)
    have hres : (encode (.bytedone t v)).word &&& 0x00FEFF00#32 = 0#32 := by
      have hmask : EncodeRow.rowMask (.bytedone t v) &&& 0x00FFFFFF#32 = 0x00FEFF00#32 := by
        simp only [EncodeRow.rowMask]
        decide
      exact hmask ▸ encode_reserved (i := .bytedone t v) rfl
    have hbus : busField (encode (.bytedone t v)).word = t := busField_busByte ..
    have hv : lowByte (encode (.bytedone t v)).word = v := lowByte_wordOfBytes ..
    rw [decodeEvent, if_neg htick, if_pos ⟨hopc, hres⟩, hbus, hv]
  | _ => cases hev

/-- Settles O2, by the channel the instruction belongs to. -/
theorem decodeOfEncodeIsTheInstruction : Obligations.DecodeOfEncodeIsTheInstruction := by
  intro i h
  unfold decodeOnItsChannel
  split
  · next hev => exact decodeEvent_encode hev
  · next hop => exact decodeOp_encode h (by simpa using hop)

end Sys2Proof
end

section
/-! What is decoded is its own encoding (30_encoding R110, R111), by the formats of R102. -/

namespace Sys2Proof

open Laws

/-! ## The bytes of a word without reserved bits -/

/-- The reserved bits are zero byte by byte. -/
theorem fields_and_eq_zero {w : Word} {b2 b1 b0 : Byte} (h : w &&& wordOfBytes 0x00#8 b2 b1 b0 = 0#32) :
    idField w &&& b2 = 0#8 ∧ txField w &&& b1 = 0#8 ∧ lowByte w &&& b0 = 0#8 := by
  have hz : (0#32 : Word) = wordOfBytes 0x00#8 0x00#8 0x00#8 0x00#8 := by decide
  rw [word_eq_wordOfBytes w, wordOfBytes_and, hz] at h
  exact (wordOfBytes_inj h).2

theorem eq_zero_of_and_ones {b : Byte} (h : b &&& 0xFF#8 = 0#8) : b = 0#8 := by
  rwa [show (0xFF#8 : Byte) = BitVec.allOnes 8 by decide, BitVec.and_allOnes] at h

/-- Format Z: every bit below the opcode is reserved. -/
theorem word_eq_of_formatZ {w : Word} {opc : Byte} (ho : opcodeOf w = opc) (h : w &&& 0x00FFFFFF#32 = 0#32) :
    w = wordOfBytes opc 0x00#8 0x00#8 0x00#8 := by
  obtain ⟨h2, h1, h0⟩ := fields_and_eq_zero (b2 := 0xFF#8) (b1 := 0xFF#8) (b0 := 0xFF#8) h
  rw [word_eq_wordOfBytes w, ho, eq_zero_of_and_ones h2, eq_zero_of_and_ones h1, eq_zero_of_and_ones h0]

/-- Format TI. -/
theorem word_eq_of_formatTI {w : Word} {opc : Byte} (ho : opcodeOf w = opc) (h : w &&& 0x0000FFFF#32 = 0#32) :
    w = wordOfBytes opc (idField w) 0x00#8 0x00#8 := by
  obtain ⟨-, h1, h0⟩ := fields_and_eq_zero (b2 := 0x00#8) (b1 := 0xFF#8) (b0 := 0xFF#8) h
  conv_lhs => rw [word_eq_wordOfBytes w, ho, eq_zero_of_and_ones h1, eq_zero_of_and_ones h0]

/-- Format TIC. -/
theorem word_eq_of_formatTIC {w : Word} {opc : Byte} (ho : opcodeOf w = opc) (h : w &&& 0x0000FF00#32 = 0#32) :
    w = wordOfBytes opc (idField w) 0x00#8 (lowByte w) := by
  obtain ⟨-, h1, -⟩ := fields_and_eq_zero (b2 := 0x00#8) (b1 := 0xFF#8) (b0 := 0x00#8) h
  conv_lhs => rw [word_eq_wordOfBytes w, ho, eq_zero_of_and_ones h1]

/-- Format TID, which has no reserved bit. -/
theorem word_eq_of_formatTID {w : Word} (ho : opcodeOf w = 0x02#8) : w = 0x02#8 ++ idField w ++ lowHalf w := by
  have hhigh : (lowHalf w).extractLsb' 8 8 = txField w := by simp [lowHalf, txField, BitVec.extractLsb'_extractLsb'_of_le]
  have hlow : (lowHalf w).extractLsb' 0 8 = lowByte w := by simp [lowHalf, lowByte, BitVec.extractLsb'_extractLsb'_of_le]
  rw [start_word_eq, hhigh, hlow, ← ho]
  exact word_eq_wordOfBytes w

/-- Format S: the flag is bit 0. -/
theorem word_eq_of_formatS {w : Word} {opc : Byte} (ho : opcodeOf w = opc) (h : w &&& 0x00FFFFFE#32 = 0#32) :
    w = wordOfBytes opc 0x00#8 0x00#8 (if w.getLsbD 0 then 0x01#8 else 0x00#8) := by
  obtain ⟨h2, h1, h0⟩ := fields_and_eq_zero (b2 := 0xFF#8) (b1 := 0xFF#8) (b0 := 0xFE#8) h
  have hflag : ∀ b : Byte, b &&& 0xFE#8 = 0#8 → b = if b.getLsbD 0 then 0x01#8 else 0x00#8 := by decide
  have hbit : (lowByte w).getLsbD 0 = w.getLsbD 0 := by simp [lowByte]
  conv_lhs => rw [word_eq_wordOfBytes w, ho, eq_zero_of_and_ones h2, eq_zero_of_and_ones h1, hflag _ h0, hbit]

/-- Format M: the selector is bits [1:0]. -/
theorem word_eq_of_formatM {w : Word} {opc : Byte} (ho : opcodeOf w = opc) (h : w &&& 0x00FFFFFC#32 = 0#32) :
    w = wordOfBytes opc 0x00#8 0x00#8 (0#6 ++ w.extractLsb' 0 2) := by
  obtain ⟨h2, h1, h0⟩ := fields_and_eq_zero (b2 := 0xFF#8) (b1 := 0xFF#8) (b0 := 0xFC#8) h
  have hsel : ∀ b : Byte, b &&& 0xFC#8 = 0#8 → b = 0#6 ++ b.extractLsb' 0 2 := by decide
  have hbits : (lowByte w).extractLsb' 0 2 = w.extractLsb' 0 2 := by simp [lowByte, BitVec.extractLsb'_extractLsb'_of_le]
  conv_lhs => rw [word_eq_wordOfBytes w, ho, eq_zero_of_and_ones h2, eq_zero_of_and_ones h1, hsel _ h0, hbits]

/-- Formats Q and EVB: the transport is bit 16. -/
theorem idField_eq_busByte {w : Word} (h : idField w &&& 0xFE#8 = 0#8) : idField w = busByte (busField w) := by
  have hbyte : ∀ b : Byte, b &&& 0xFE#8 = 0#8 → b = busByte (if b.getLsbD 0 then .b else .a) := by decide
  have hbit : (idField w).getLsbD 0 = w.getLsbD 16 := by simp [idField]
  rw [busField, ← hbit]
  exact hbyte _ h

/-! ## `ENQ`'s operand words -/

/-- The four bytes of a first data word come before those of the words behind it (30_encoding R107). -/
theorem unpackPayload_add_four (x : Nat) (w : Word) (ws : List Word) :
    unpackPayload (x + 4) (w :: ws) = lowByte w :: txField w :: idField w :: opcodeOf w :: unpackPayload x ws := by
  simp only [unpackPayload, List.range_succ_eq_map, List.map_cons, List.map_map, Function.comp_def, Nat.succ_eq_add_one]
  simp only [Nat.add_assoc, Nat.reduceAdd, payloadByte_succ]
  rfl

theorem extractLsb'_eq_zero_of_shiftRight {w : Word} {n : Nat} (h : w >>> n = 0#32) {k : Nat} (hk : n ≤ k) (m : Nat) :
    w.extractLsb' k m = 0#m := by
  ext i hi
  have hbit := congrArg (BitVec.getLsbD · (k - n + i)) h
  simp only [BitVec.getLsbD_ushiftRight, BitVec.getLsbD_zero] at hbit
  simpa [show n + (k - n + i) = k + i by omega] using hbit

theorem opcodeOf_eq_zero {w : Word} {n : Nat} (h : w >>> n = 0#32) (hn : n ≤ 24) : opcodeOf w = 0#8 :=
  extractLsb'_eq_zero_of_shiftRight h hn 8

theorem idField_eq_zero {w : Word} {n : Nat} (h : w >>> n = 0#32) (hn : n ≤ 16) : idField w = 0#8 :=
  extractLsb'_eq_zero_of_shiftRight h hn 8

theorem txField_eq_zero {w : Word} {n : Nat} (h : w >>> n = 0#32) (hn : n ≤ 8) : txField w = 0#8 :=
  extractLsb'_eq_zero_of_shiftRight h hn 8

/-- Packing undoes unpacking where the lanes beyond the payload are zero (30_encoding R107). -/
theorem packPayload_unpackPayload : ∀ (x : Nat) (ops : List Word), dataWords x ≤ ops.length → lanesClear x ops = true →
    packPayload (unpackPayload x ops) = ops.take (dataWords x)
  | 0, ops, _, _ => rfl
  | x, [], hl, _ => by
    obtain rfl : x = 0 := by
      simp only [dataWords, List.length_nil] at hl
      omega
    rfl
  | 1, w :: ws, _, hc => by
    have hs : w >>> 8 = 0#32 := by simpa [lanesClear, dataWords] using hc
    show [wordOfBytes 0x00#8 0x00#8 0x00#8 (lowByte w)] = [w]
    conv_rhs => rw [word_eq_wordOfBytes w, opcodeOf_eq_zero hs (by decide), idField_eq_zero hs (by decide),
      txField_eq_zero hs le_rfl]
  | 2, w :: ws, _, hc => by
    have hs : w >>> 16 = 0#32 := by simpa [lanesClear, dataWords] using hc
    show [wordOfBytes 0x00#8 0x00#8 (txField w) (lowByte w)] = [w]
    conv_rhs => rw [word_eq_wordOfBytes w, opcodeOf_eq_zero hs (by decide), idField_eq_zero hs le_rfl]
  | 3, w :: ws, _, hc => by
    have hs : w >>> 24 = 0#32 := by simpa [lanesClear, dataWords] using hc
    show [wordOfBytes 0x00#8 (idField w) (txField w) (lowByte w)] = [w]
    conv_rhs => rw [word_eq_wordOfBytes w, opcodeOf_eq_zero hs le_rfl]
  | x + 4, w :: ws, hl, hc => by
    have hd : dataWords (x + 4) = dataWords x + 1 := by simp only [dataWords]; omega
    have hrest : lanesClear x ws = true := by
      simp only [lanesClear, Bool.or_eq_true, decide_eq_true_eq] at hc ⊢
      by_cases h0 : x % 4 = 0
      · exact .inl h0
      · refine .inr ?_
        have hlast : dataWords (x + 4) - 1 = dataWords x - 1 + 1 := by simp only [dataWords]; omega
        rw [hlast, List.getD_cons_succ, Nat.add_mod_right] at hc
        exact hc.resolve_left h0
    rw [unpackPayload_add_four, packPayload, ← word_eq_wordOfBytes, hd, List.take_succ_cons,
      packPayload_unpackPayload x ws (by simpa [hd] using hl) hrest]

theorem append_lowHalf_of_high_zero {w : Word} (h : w.extractLsb' 16 16 = 0#16) : 0#16 ++ lowHalf w = w := by
  rw [← h, lowHalf]
  ext i hi
  simp only [BitVec.getElem_append, BitVec.getElem_extractLsb', Nat.zero_add]
  split
  · rfl
  · rw [Nat.add_sub_cancel' (by omega)]
    rfl

/-- Packing undoes unpacking where the high halves are zero (30_encoding R108). -/
theorem packDests_unpackDests {ops : List Word} (h : destsClear ops = true) : packDests (unpackDests ops) = ops := by
  simp only [destsClear, List.all_eq_true, decide_eq_true_eq] at h
  rw [packDests, unpackDests, List.map_map]
  exact (List.map_congr_left fun w hw => append_lowHalf_of_high_zero (h w hw)).trans (List.map_id ops)

/-! ## The operations -/

/-- An operation that is read from a word without reserved bits is encoded as that word and its operand words. -/
theorem encode_of_decodeEnq {w : Word} {ops : List Word} {i : Instr} (ho : opcodeOf w = 0x20#8)
    (hr : w &&& 0x00FE0000#32 = 0#32) (hl : ops.length = dataWords (txField w).toNat + (lowByte w).toNat)
    (h : decodeEnq w ops = .ok i) : i.wf = true ∧ encode i = ⟨w, ops⟩ := by
  unfold decodeEnq at h
  simp only at h
  split_ifs at h with hlanes hdests
  cases h
  obtain ⟨hbus, -, -⟩ := fields_and_eq_zero (b2 := 0xFE#8) (b1 := 0x00#8) (b0 := 0x00#8) hr
  have hx : (unpackPayload (txField w).toNat ops).length = (txField w).toNat := by simp [unpackPayload]
  have hy : (unpackDests (ops.drop (dataWords (txField w).toNat))).length = (lowByte w).toNat := by
    simp [unpackDests, hl]
  have hx8 := (txField w).isLt
  have hy8 := (lowByte w).isLt
  refine ⟨by simp only [Instr.wf, hx, hy, Bool.and_eq_true, decide_eq_true_eq]; omega, ?_⟩
  simp only [encode, hx, hy, BitVec.ofNat_toNat, BitVec.setWidth_eq, ← idField_eq_busByte hbus, ← ho,
    ← word_eq_wordOfBytes, packPayload_unpackPayload _ ops (by omega) hlanes, packDests_unpackDests hdests,
    List.take_append_drop]

theorem encode_of_decodeFields {w r : Word} {ops : List Word} {i : Instr} (hres : reservedBits (opcodeOf w) = some r)
    (hr : w &&& r = 0#32) (hl : ops.length = operandCount w) (h : decodeFields w ops = .ok i) :
    i.wf = true ∧ encode i = ⟨w, ops⟩ := by
  have hclear {opc : Byte} {m : Word} (ho : opcodeOf w = opc) (hm : reservedBits opc = some m) : w &&& m = 0#32 := by
    rw [ho, hm] at hres
    cases hres
    exact hr
  have hnil {opc : Byte} (ho : opcodeOf w = opc) (hm : opc ≠ 0x10#8 ∧ opc ≠ 0x20#8) : ops = [] := by
    simpa [operandCount, ho, hm] using hl
  unfold decodeFields at h
  rcases ite_eq_iff.mp h with ⟨ho, h⟩ | ⟨-, h⟩
  · cases h
    exact ⟨rfl, by rw [encode, hnil ho (by decide), ← word_eq_of_formatTIC ho (hclear ho rfl)]⟩
  rcases ite_eq_iff.mp h with ⟨ho, h⟩ | ⟨-, h⟩
  · cases h
    exact ⟨rfl, by rw [encode, hnil ho (by decide), ← word_eq_of_formatTID ho]⟩
  rcases ite_eq_iff.mp h with ⟨ho, h⟩ | ⟨-, h⟩
  · cases h
    exact ⟨rfl, by rw [encode, hnil ho (by decide), ← word_eq_of_formatTI ho (hclear ho rfl)]⟩
  rcases ite_eq_iff.mp h with ⟨ho, h⟩ | ⟨-, h⟩
  · cases h
    exact ⟨rfl, by rw [encode, hnil ho (by decide), ← word_eq_of_formatTI ho (hclear ho rfl)]⟩
  rcases ite_eq_iff.mp h with ⟨ho, h⟩ | ⟨-, h⟩
  · cases h
    rw [operandCount, if_pos ho] at hl
    obtain ⟨mask, rfl⟩ := List.length_eq_one_iff.mp hl
    exact ⟨rfl, by rw [word_eq_of_formatZ ho (hclear ho rfl)]; rfl⟩
  rcases ite_eq_iff.mp h with ⟨ho, h⟩ | ⟨-, h⟩
  · rw [operandCount, ho] at hl
    exact encode_of_decodeEnq ho (hclear ho rfl) hl h
  rcases ite_eq_iff.mp h with ⟨ho, h⟩ | ⟨-, h⟩
  · cases h
    exact ⟨rfl, by rw [hnil ho (by decide), word_eq_of_formatZ ho (hclear ho rfl)]; rfl⟩
  rcases ite_eq_iff.mp h with ⟨ho, h⟩ | ⟨-, h⟩
  · cases h
    exact ⟨rfl, by rw [hnil ho (by decide), word_eq_of_formatZ ho (hclear ho rfl)]; rfl⟩
  rcases ite_eq_iff.mp h with ⟨ho, h⟩ | ⟨-, h⟩
  · cases h
    exact ⟨rfl, by rw [encode, hnil ho (by decide), ← word_eq_of_formatS ho (hclear ho rfl)]⟩
  rcases ite_eq_iff.mp h with ⟨ho, h⟩ | ⟨-, h⟩
  · cases h
    exact ⟨rfl, by rw [encode, hnil ho (by decide), ← word_eq_of_formatM ho (hclear ho rfl)]⟩
  cases h

/-- Settles O3, by the checks and the operation that the opcode names. -/
theorem decodedPresentationIsItsEncoding : Obligations.DecodedPresentationIsItsEncoding := by
  intro p i h
  obtain ⟨r, hres, hr, hl, hf⟩ := decodeOp_eq_ok_iff.mp h
  obtain ⟨hwf, henc⟩ := encode_of_decodeFields hres hr hl hf
  exact ⟨hwf, decodeOp_not_event h, henc⟩

/-! ## The event words -/

/-- The event input accepts an event's own word and no other (30_encoding R109). -/
theorem decodeEvent_eq_ok_iff {w : Word} {i : Instr} :
    decodeEvent w = .ok i ↔ i.isEvent = true ∧ w = (encode i).word := by
  refine ⟨fun h => ?_, fun ⟨hev, hw⟩ => hw ▸ decodeEvent_encode hev⟩
  rcases decodeEvent_cases h with ⟨rfl, rfl⟩ | ⟨ho, hr, rfl⟩
  · exact ⟨rfl, rfl⟩
  · obtain ⟨hbus, hzero, -⟩ := fields_and_eq_zero (b2 := 0xFE#8) (b1 := 0xFF#8) (b0 := 0x00#8) hr
    refine ⟨rfl, ?_⟩
    rw [encode, ← idField_eq_busByte hbus, ← ho, ← eq_zero_of_and_ones hzero]
    exact word_eq_wordOfBytes w

theorem encode_bytedone_words (v : Byte) :
    (encode (.bytedone .a v)).word = 0xE10000#24 ++ v ∧ (encode (.bytedone .b v)).word = 0xE10100#24 ++ v :=
  ⟨rfl, rfl⟩

/-- Settles O4, by the encodings of the two events. -/
theorem eventInputAcceptsOnlyTwoPatterns : Obligations.EventInputAcceptsOnlyTwoPatterns := by
  intro w i
  rw [decodeEvent_eq_ok_iff]
  constructor
  · rintro ⟨hev, rfl⟩
    cases i with
    | tick => exact .inl ⟨rfl, rfl⟩
    | bytedone t v =>
      obtain ⟨ha, hb⟩ := encode_bytedone_words v
      cases t with
      | a => exact .inr ⟨v, .inl ⟨ha, rfl⟩⟩
      | b => exact .inr ⟨v, .inr ⟨hb, rfl⟩⟩
    | _ => cases hev
  · rintro (⟨rfl, rfl⟩ | ⟨v, ⟨rfl, rfl⟩ | ⟨rfl, rfl⟩⟩)
    · exact ⟨rfl, rfl⟩
    · exact ⟨rfl, (encode_bytedone_words v).1.symm⟩
    · exact ⟨rfl, (encode_bytedone_words v).2.symm⟩

/-! ## The stream reader -/

/-- The stream reader takes as many operand words as L(w) says (30_encoding R114). -/
theorem readStream_append {p : OpWords} (h : p.operands.length = operandCount p.word) (rest : List Word) :
    readStream (p.toList ++ rest) = some (p, rest) := by
  have hlong : ¬ (p.operands ++ rest).length < operandCount p.word := by
    rw [List.length_append]
    omega
  rw [OpWords.toList, List.cons_append, readStream, if_neg hlong, ← h, List.take_left, List.drop_left]

/-- Settles O6, by the number of operand words of an encoding. -/
theorem streamReaderTakesOneOperation : Obligations.StreamReaderTakesOneOperation := by
  refine ⟨fun i rest h _ => readStream_append (encode_inRow i h).2 rest, fun w => ?_⟩
  have := operandCount_le w
  omega

/-! ## Opcodes of no operation, and the worked encodings -/

/-- Only the opcodes of the ten operations have a format (30_encoding R103). -/
theorem reservedBits_eq_none {opc : Byte}
    (h : opc ∉ [0x01#8, 0x02#8, 0x03#8, 0x04#8, 0x10#8, 0x20#8, 0x30#8, 0x31#8, 0x32#8, 0x40#8]) :
    reservedBits opc = none := by
  simp only [List.mem_cons, List.not_mem_nil, or_false, not_or] at h
  simp [reservedBits, h]

/-- Settles O5: an opcode without a format is refused before the operand words are looked at. -/
theorem unlistedOpcodesAreIllegal : Obligations.UnlistedOpcodesAreIllegal := by
  intro p h
  simp only [decodeOp, reservedBits_eq_none h]
  split <;> rfl

/-- Settles O1, by running the decoders on the words. -/
theorem workedEncodingsDecode : Obligations.WorkedEncodingsDecode := by
  unfold Obligations.WorkedEncodingsDecode
  decide

end Sys2Proof
end

section
/-! How an operation ends (30_encoding R104): one lemma per instruction says which result it delivers, after `Wire` entries
only. -/

namespace Sys2Proof.Machine

/-- The state u is reached from s with nothing but `Wire` entries in the trace. -/
def State.OnlyWires (s u : State) : Prop :=
  ∃ before : List TraceEntry, u.trace = s.trace ++ before ∧ ∀ e ∈ before, ∃ t x, e = .wire t x

theorem State.OnlyWires.of_trace_eq {s u : State} (h : u.trace = s.trace) : s.OnlyWires u :=
  ⟨[], by rw [h, List.append_nil], by simp⟩

/-- `Load(t, x)` puts one byte on the wire (42_transport R195). -/
theorem State.OnlyWires.load {s u : State} (h : u.trace = s.trace) (t : Bus) (x : Byte) : s.OnlyWires (u.load t x) :=
  ⟨[.wire t x], by rw [State.load_trace, h], by simp⟩

theorem State.OnlyWires.of_left_trace_eq {s s₁ u : State} (h : s₁.trace = s.trace) (hu : s₁.OnlyWires u) :
    s.OnlyWires u := by
  unfold State.OnlyWires at hu ⊢
  rwa [← h]

/-- `StartRow(t)` loads at most one byte (42_transport R196). -/
theorem State.startRow_onlyWires (t : Bus) (s : State) : s.OnlyWires (s.startRow t) :=
  State.startRow_induction t (P := State.OnlyWires)
    (fun s _ => .of_trace_eq (s.setPhase_trace t .idle 0 0))
    (fun s _ _ => .load (s.setPhase_trace t .sending 1 0) t _)
    (fun s _ _ => .load (s.setPhase_trace t .receiving 0 0) t _)
    (fun s _ _ h => .of_left_trace_eq (s.completeRow_trace t) h) s

/-- The answer is a next state whose step ended with this `Result`, after `Wire` entries only. -/
def State.Reports (s : State) (x : Answer) (op : OpName) (st : Status) (v : Half) : Prop :=
  ∃ u : State, x = .next (u.finish op st v) ∧ s.OnlyWires u

theorem State.Reports.of_trace_eq {s u : State} (h : u.trace = s.trace) (op : OpName) (st : Status) (v : Half) :
    s.Reports (.next (u.finish op st v)) op st v :=
  ⟨u, rfl, .of_trace_eq h⟩

/-- The last entry of the trace is the result that is delivered (30_encoding R104). -/
theorem State.delivered_finish (s : State) (op : OpName) (st : Status) (v : Half) :
    (s.finish op st v).delivered = some (resultWord st v) := by
  rw [State.delivered, State.finish_trace, List.getLast?_concat]
  rfl

/-! ## The operations -/

theorem execRegister_reports (id cb : Byte) (s : State) :
    ∃ st ∈ [Status.ok, .resourceExhausted, .configurationError], s.Reports (execRegister id cb s) .register st 0#16 := by
  unfold execRegister
  split
  · exact ⟨.configurationError, by simp, .of_trace_eq rfl ..⟩
  · split
    · exact ⟨.resourceExhausted, by simp, .of_trace_eq rfl ..⟩
    · exact ⟨.ok, by simp, .of_trace_eq rfl ..⟩

theorem execStart_reports (id : Byte) (dur : Half) (s : State) :
    ∃ st ∈ [Status.ok, .notFound], s.Reports (execStart id dur s) .start st 0#16 := by
  unfold execStart
  split
  · exact ⟨.notFound, by simp, .of_trace_eq rfl ..⟩
  · exact ⟨.ok, by simp, .of_trace_eq rfl ..⟩

theorem execStop_reports (id : Byte) (s : State) :
    ∃ st ∈ [Status.ok, .notFound], s.Reports (execStop id s) .stop st 0#16 := by
  unfold execStop
  split
  · exact ⟨.notFound, by simp, .of_trace_eq rfl ..⟩
  · exact ⟨.ok, by simp, .of_trace_eq rfl ..⟩

/-- The elapsed count is the value on success alone (40_timer R145). -/
theorem execElapsed_reports (id : Byte) (s : State) :
    ∃ st ∈ [Status.ok, .notFound], ∃ v, (st ≠ .ok → v = 0#16) ∧ s.Reports (execElapsed id s) .elapsed st v := by
  unfold execElapsed
  split
  · exact ⟨.notFound, by simp, 0#16, fun _ => rfl, .of_trace_eq rfl ..⟩
  · exact ⟨.ok, by simp, _, fun h => absurd rfl h, .of_trace_eq rfl ..⟩

/-- A mapped mask is posted (41_dispatcher R171). -/
theorem execPost_reports {mask : Word} {s : State} (h : mask &&& ~~~s.cfg.definedMask = 0#32) :
    s.Reports (execPost mask s) .post .ok 0#16 := by
  have hmapped : s.unmapped mask = false := by simpa [State.unmapped] using h
  simp only [execPost, hmapped, Bool.false_eq_true, if_false]
  exact .of_trace_eq rfl ..

/-- Only the start of an Idle transport puts a byte on the wire (42_transport R192, R194). -/
theorem execEnq_reports (t : Bus) (payload : List Byte) (dests : List Addr) (s : State) :
    ∃ st ∈ [Status.ok, .badLength, .resourceExhausted], s.Reports (execEnq t payload dests s) .enq st 0#16 := by
  have happend := s.appendRow_trace t payload dests
  unfold execEnq
  split
  · exact ⟨.badLength, by simp, .of_trace_eq rfl ..⟩
  · split
    · exact ⟨.resourceExhausted, by simp, .of_trace_eq rfl ..⟩
    · refine ⟨.ok, by simp, _, rfl, ?_⟩
      split
      · exact .of_left_trace_eq happend (State.startRow_onlyWires t _)
      · exact .of_trace_eq happend

theorem execCsexit_reports (v : Bool) (s : State) :
    ∃ st ∈ [Status.ok, .wrongContext], s.Reports (execCsexit v s) .csexit st 0#16 := by
  unfold execCsexit
  split
  · exact ⟨.wrongContext, by simp, .of_trace_eq rfl ..⟩
  · exact ⟨.ok, by simp, .of_trace_eq rfl ..⟩

/-- `RET` appends at most the entry of its fault (43_system R231). -/
theorem execRet_trace {s s' : State} (h : execRet s = .next s') :
    s'.trace = s.trace ∨ ∃ f, s'.trace = s.trace ++ [.fault f] := by
  unfold execRet at h
  split at h
  · cases h; exact .inl rfl
  · cases h; exact .inl rfl
  · split at h
    · cases h; exact .inl rfl
    · cases h; exact .inr ⟨_, rfl⟩
  · cases h
  · cases h

/-- What a report says of the next state, whatever else is known of its result. -/
theorem State.Reports.ends {s : State} {x : Answer} {op : OpName} {st : Status} {v : Half} (h : s.Reports x op st v)
    (hv : st ≠ .ok → v = 0#16) {P : OpName → Status → Half → Prop} (hP : P op st v) :
    ∃ (s' : State) (before : List TraceEntry) (op : OpName) (st : Status) (v : Half), x = .next s'
      ∧ s'.trace = s.trace ++ before ++ [.result op st v] ∧ (∀ e ∈ before, ∃ t x, e = .wire t x)
      ∧ s'.delivered = some (st.code ++ (0x00#8 : Byte) ++ v) ∧ (st ≠ .ok → v = 0#16) ∧ P op st v := by
  obtain ⟨u, hx, before, htrace, hwire⟩ := h
  exact ⟨u.finish op st v, before, op, st, v, hx, by rw [State.finish_trace, htrace], hwire,
    u.delivered_finish op st v, hv, hP⟩

/-- Settles O52, by the report of each operation. -/
theorem everyOperationEndsWithItsStatus : Obligations.EveryOperationEndsWithItsStatus := by
  refine ⟨by decide, fun i s hev hret hmask => ?_, fun s s' h e he => ?_⟩
  · cases i with
    | register id cb =>
      obtain ⟨st, hst, h⟩ := execRegister_reports id cb s
      exact h.ends (fun _ => rfl) ⟨rfl, rfl, hst⟩
    | start id dur =>
      obtain ⟨st, hst, h⟩ := execStart_reports id dur s
      exact h.ends (fun _ => rfl) ⟨rfl, rfl, hst⟩
    | stop id =>
      obtain ⟨st, hst, h⟩ := execStop_reports id s
      exact h.ends (fun _ => rfl) ⟨rfl, rfl, hst⟩
    | elapsed id =>
      obtain ⟨st, hst, v, hv, h⟩ := execElapsed_reports id s
      exact h.ends hv ⟨rfl, hst⟩
    | post mask => exact (execPost_reports (hmask mask rfl)).ends (fun _ => rfl) ⟨rfl, rfl, rfl⟩
    | enq t payload dests =>
      obtain ⟨st, hst, h⟩ := execEnq_reports t payload dests s
      exact h.ends (fun _ => rfl) ⟨rfl, rfl, hst⟩
    | ret => exact absurd rfl hret
    | csenter =>
      have h : s.Reports (execCsenter s) .csenter .ok (boolHalf s.ie) := .of_trace_eq rfl ..
      exact h.ends (fun hne => absurd rfl hne) ⟨rfl, rfl⟩
    | csexit v =>
      obtain ⟨st, hst, h⟩ := execCsexit_reports v s
      exact h.ends (fun _ => rfl) ⟨rfl, rfl, hst⟩
    | rdmetric sel =>
      have h : s.Reports (execRdmetric sel s) .rdmetric .ok _ := .of_trace_eq rfl ..
      exact h.ends (fun hne => absurd rfl hne) ⟨rfl, rfl⟩
    | tick => cases hev
    | bytedone t v => cases hev
  · rcases execRet_trace h with ht | ⟨f, ht⟩
    · simp [ht] at he
    · rw [ht, List.drop_left, List.mem_singleton] at he
      rw [he]
      rfl

end Sys2Proof.Machine
end

section
/-! The Timer Engine (40_timer): what `find` names, what the four operations answer, and the tick handler's two steps.
-/

namespace Sys2Proof.Machine

/-! ## The lookup of an identity (40_timer R141) -/

/-- The slot that `find` names has the identity. -/
theorem State.id_of_find_some {s : State} {id : Byte} {i : Nat} (h : s.find id = some i) : (s.slot i).id = id := by
  have hlen := State.find_lt h
  obtain ⟨_, hid, -⟩ := List.findIdx?_eq_some_iff_getElem.mp h
  simpa [State.slot, hlen] using hid

/-- Identities are distinct (10_state R42), so `find` names every registered slot by its identity. -/
theorem State.Inv.find_id {s : State} (h : s.Inv) {i : Nat} (hi : i < s.nreg) : s.find (s.slot i).id = some i := by
  obtain ⟨hlen, hle, -, hinj, -, -⟩ := h.pool
  cases hf : s.find (s.slot i).id with
  | none => exact absurd rfl (State.id_ne_of_find_none hf (by omega) hi)
  | some j => rw [hinj j (State.find_lt_nreg hf) i hi (State.id_of_find_some hf)]

/-- Settles O20. -/
theorem findIsTheRegisteredSlot : Obligations.FindIsTheRegisteredSlot := by
  intro s id h
  have hsome : ∀ i, s.find id = some i ↔ i < s.nreg ∧ (s.slot i).id = id := fun i =>
    ⟨fun hf => ⟨State.find_lt_nreg hf, State.id_of_find_some hf⟩, fun ⟨hi, hid⟩ => hid ▸ h.find_id hi⟩
  refine ⟨hsome, fun hf i hi hid => ?_, fun hnew => ?_⟩
  · rw [(hsome i).mpr ⟨hi, hid⟩] at hf
    cases hf
  · refine Option.eq_none_iff_forall_ne_some.mpr fun i hf => ?_
    obtain ⟨hi, hid⟩ := (hsome i).mp hf
    exact hnew i hi hid

/-! ## The operations (40_timer R142-R145) -/

/-- Settles O21, in the order of the checks. -/
theorem registerAssignsTheNextSlot : Obligations.RegisterAssignsTheNextSlot := by
  intro id cb s
  refine ⟨fun hf => ?_, fun hf hn => ?_, fun hf hn => ?_⟩
  · obtain ⟨i, hi⟩ := Option.ne_none_iff_exists'.mp hf
    simp only [exec, execRegister, hi]
    rfl
  · simp only [exec, execRegister, hf, if_pos hn]
    rfl
  · simp only [exec, execRegister, hf, if_neg hn]
    rfl

/-- Settles O22. -/
theorem startSetsTheCounters : Obligations.StartSetsTheCounters := by
  intro id dur s
  constructor
  · intro hf
    simp only [exec, execStart, hf]
    rfl
  · intro i hf
    simp only [exec, execStart, hf]
    rfl

/-- Settles O23. -/
theorem stopClearsTheRunningFlag : Obligations.StopClearsTheRunningFlag := by
  intro id s
  constructor
  · intro hf
    simp only [exec, execStop, hf]
    rfl
  · intro i hf
    simp only [exec, execStop, hf]
    rfl

/-- Settles O24. -/
theorem elapsedReturnsTheCounter : Obligations.ElapsedReturnsTheCounter := by
  intro id s
  constructor
  · intro hf
    simp only [exec, execElapsed, hf]
    rfl
  · intro i hf
    simp only [exec, execElapsed, hf]
    rfl

/-! ## The tick handler (40_timer R147, R149) -/

theorem Slot.counted_last {w : Slot} (h : w.remaining.toNat ≤ 1) :
    w.counted = { w with elapsed := w.elapsed + 1#16, remaining := 0#16, run := false } :=
  if_pos h

theorem Slot.counted_more {w : Slot} (h : 1 < w.remaining.toNat) :
    w.counted = { w with elapsed := w.elapsed + 1#16, remaining := w.remaining - 1#16 } :=
  if_neg (Nat.not_le_of_lt h)

theorem Slot.fires_iff (w : Slot) : w.fires = true ↔ w.remaining.toNat ≤ 1 ∧ w.cb ≠ noCallback := by
  simp [Slot.fires, BitVec.le_def]

theorem State.counts_iff (s : State) (i : Nat) : s.counts i = true ↔ i < s.nreg ∧ (s.slot i).run = true := by
  simp [State.counts]

theorem State.tickSlot_of_fires {s : State} {i : Nat} (hc : s.counts i = true) (hf : (s.slot i).fires = true) :
    s.tickSlot i = { s with
      slots := s.slots.set i (s.slot i).counted
      trace := s.trace ++ [.callback (s.slot i).cb (s.slot i).id]
      isr := .callback i
      cbPos := 0 } := by
  simp only [State.tickSlot, hc, hf, if_true]
  rfl

theorem State.tickSlot_of_not_fires {s : State} {i : Nat} (hc : s.counts i = true) (hf : (s.slot i).fires = false) :
    s.tickSlot i = { s with slots := s.slots.set i (s.slot i).counted, isr := .tick (i + 1) } := by
  simp only [State.tickSlot, hc, hf, if_true, Bool.false_eq_true, if_false]
  rfl

theorem State.tickSlot_of_not_counts {s : State} {i : Nat} (hc : s.counts i = false) :
    s.tickSlot i = { s with isr := .tick (i + 1) } := by
  simp only [State.tickSlot, hc, Bool.false_eq_true, if_false]

/-- The step of `TSEQ` at `Tick(i)` (40_timer R146). -/
theorem step_tickScan {s : State} {rest : List Move} {i : Nat} (hw : s.willTake .tickScan rest) (hi : s.isr = .tick i) :
    step s = .next ((s.withMoves rest).tickScan i) :=
  step_of_took hw (.tickScan (s.withMoves rest) i hi)

/-- Settles O25, by whether the slot is counted, expires and has a callback. -/
theorem tickSlotStep : Obligations.TickSlotStep := by
  intro s rest i hw hisr hi
  have hstep : step s = .next ((s.withMoves rest).tickSlot i) := by
    rw [step_tickScan hw hisr, State.tickScan, if_pos hi]
  have hcounts := (s.withMoves rest).counts_iff i
  have hfires := (s.slot i).fires_iff
  refine ⟨fun hc hr hcb => ?_, fun hc hr hcb => ?_, fun hc hr => ?_, fun hc => ?_⟩
  · rw [hstep, State.tickSlot_of_fires (hcounts.mpr hc) (hfires.mpr ⟨hr, hcb⟩), ← Slot.counted_last hr]
    rfl
  · have hf : (s.slot i).fires = false := Bool.eq_false_iff.mpr fun hf => (hfires.mp hf).2 hcb
    rw [hstep, State.tickSlot_of_not_fires (hcounts.mpr hc) hf, ← Slot.counted_last hr]
    rfl
  · have hf : (s.slot i).fires = false := Bool.eq_false_iff.mpr fun hf => Nat.not_le_of_lt hr (hfires.mp hf).1
    rw [hstep, State.tickSlot_of_not_fires (hcounts.mpr hc) hf, ← Slot.counted_more hr]
    rfl
  · rw [hstep, State.tickSlot_of_not_counts (Bool.eq_false_iff.mpr fun hc' => hc (hcounts.mp hc'))]

/-- Settles O26. -/
theorem tickFinalStepReArmsAndReturns : Obligations.TickFinalStepReArmsAndReturns := by
  intro s rest hw hisr
  rw [step_tickScan hw hisr, State.tickScan, if_neg (Nat.lt_irrefl _)]
  rfl

end Sys2Proof.Machine
end

section
/-! A slot under the slot steps of the tick handler (40_timer R147, R150): the slot after n of them, and the callbacks
they invoke. -/

namespace Sys2Proof.Machine

/-- The slot after one slot step: a running slot is counted, another is passed over. -/
def Slot.ticked (w : Slot) : Slot := if w.run then w.counted else w

/-- What one slot step of the slot appends to the trace. -/
def Slot.firing (w : Slot) : List TraceEntry := if w.run && w.fires then [.callback w.cb w.id] else []

/-- What n slot steps of the slot append to the trace. -/
def Slot.firings : Nat → Slot → List TraceEntry
  | 0, _ => []
  | n + 1, w => w.firing ++ Slot.firings n w.ticked

theorem Slot.firings_succ (n : Nat) (w : Slot) : Slot.firings (n + 1) w = w.firing ++ Slot.firings n w.ticked := rfl

theorem Slot.ticked_of_run {w : Slot} (h : w.run = true) : w.ticked = w.counted := if_pos h

theorem Slot.ticked_of_stopped {w : Slot} (h : w.run = false) : w.ticked = w := if_neg (Bool.eq_false_iff.mp h)

theorem Slot.firing_of_stopped {w : Slot} (h : w.run = false) : w.firing = [] := by simp [Slot.firing, h]

theorem Slot.firing_eq (w : Slot) :
    w.firing = if w.run = true ∧ w.remaining.toNat ≤ 1 ∧ w.cb ≠ noCallback then [.callback w.cb w.id] else [] := by
  simp only [Slot.firing, Bool.and_eq_true, Slot.fires_iff]

/-- A slot step keeps the registration, the identity and the callback. -/
theorem Slot.ticked_keeps (w : Slot) : w.ticked.reg = w.reg ∧ w.ticked.id = w.id ∧ w.ticked.cb = w.cb := by
  unfold Slot.ticked
  split
  · exact w.counted_keeps
  · exact ⟨rfl, rfl, rfl⟩

theorem Slot.iterate_ticked_keeps (n : Nat) (w : Slot) :
    (Slot.ticked^[n] w).reg = w.reg ∧ (Slot.ticked^[n] w).id = w.id := by
  induction n generalizing w with
  | zero => exact ⟨rfl, rfl⟩
  | succ n ih =>
    obtain ⟨hreg, hid, -⟩ := w.ticked_keeps
    obtain ⟨hreg', hid'⟩ := ih w.ticked
    exact ⟨hreg'.trans hreg, hid'.trans hid⟩

theorem Slot.firings_add (n m : Nat) (w : Slot) :
    Slot.firings (n + m) w = Slot.firings n w ++ Slot.firings m (Slot.ticked^[n] w) := by
  induction n generalizing w with
  | zero => rw [Nat.zero_add]; rfl
  | succ n ih =>
    rw [Nat.succ_add, Slot.firings_succ, ih, Slot.firings_succ, List.append_assoc]
    rfl

theorem Slot.firings_of_stopped (n : Nat) {w : Slot} (h : w.run = false) : Slot.firings n w = [] := by
  induction n with
  | zero => rfl
  | succ n ih => rw [Slot.firings_succ, Slot.firing_of_stopped h, Slot.ticked_of_stopped h, ih, List.append_nil]

/-- A running slot whose count cannot overflow: it is counted until its `max(remaining, 1)`-th slot step, at which it
stops and its callback, if it has one, is invoked (40_timer R150). -/
theorem Slot.run_to_expiry (n : Nat) {w : Slot} (hrun : w.run = true)
    (hfit : w.elapsed.toNat + max w.remaining.toNat 1 < 65536) :
    (Slot.ticked^[n] w).elapsed.toNat = w.elapsed.toNat + min n (max w.remaining.toNat 1)
      ∧ (Slot.ticked^[n] w).run = decide (n < max w.remaining.toNat 1)
      ∧ Slot.firings n w =
          if max w.remaining.toNat 1 ≤ n ∧ w.cb ≠ noCallback then [.callback w.cb w.id] else [] := by
  induction n generalizing w with
  | zero => simp [hrun, Slot.firings]
  | succ n ih =>
    have helapsed : (w.elapsed + 1#16).toNat = w.elapsed.toNat + 1 :=
      BitVec.toNat_add_of_lt (by simp only [BitVec.toNat_ofNat]; omega)
    rw [Function.iterate_succ_apply, Slot.firings_succ, Slot.firing_eq, Slot.ticked_of_run hrun]
    rcases Nat.lt_or_ge 1 w.remaining.toNat with hmore | hlast
    · have hleft : (w.remaining - 1#16).toNat = w.remaining.toNat - 1 :=
        BitVec.toNat_sub_of_le (by simpa [BitVec.le_def] using hmore.le)
      have hnext := ih (w := w.counted)
      rw [Slot.counted_more hmore] at hnext ⊢
      simp only [helapsed, hleft] at hnext
      obtain ⟨he, hr, hcalls⟩ := hnext hrun (by omega)
      refine ⟨he.trans (by omega), hr.trans (decide_eq_decide.mpr (by omega)), ?_⟩
      rw [hcalls, if_neg (by omega), List.nil_append]
      exact if_congr (and_congr_left' (by omega)) rfl rfl
    · have hstop : w.counted.run = false := by rw [Slot.counted_last hlast]
      have hmax : max w.remaining.toNat 1 = 1 := by omega
      rw [Function.iterate_fixed (Slot.ticked_of_stopped hstop), hstop, Slot.firings_of_stopped n hstop,
        Slot.counted_last hlast, hmax, List.append_nil]
      exact ⟨helapsed.trans (by omega), by simp, if_congr (by simp [hrun, hlast]) rfl rfl⟩

/-- A running slot is registered (10_state R42). -/
theorem State.Inv.lt_nreg_of_run {s : State} (h : s.Inv) {i : Nat} (hi : i < s.cfg.nTimers)
    (hrun : (s.slot i).run = true) : i < s.nreg := by
  obtain ⟨-, -, hregs, -, hidle, -⟩ := h.pool
  by_contra hn
  rw [hidle i hi (by rw [hregs i hi, decide_eq_false hn])] at hrun
  cases hrun

/-- A slot step of a pool that meets the invariant: the slot is ticked, its firing appended to the trace, and a
callback entered exactly when one is invoked (40_timer R147). -/
theorem State.Inv.tickSlot_eq {s : State} (h : s.Inv) {i : Nat} (hi : i < s.cfg.nTimers) :
    s.tickSlot i = { s with
      slots := s.slots.set i (s.slot i).ticked
      trace := s.trace ++ (s.slot i).firing
      isr := if (s.slot i).firing = [] then .tick (i + 1) else .callback i
      cbPos := if (s.slot i).firing = [] then s.cbPos else 0 } := by
  obtain ⟨hlen, -⟩ := h.pool
  cases hrun : (s.slot i).run with
  | false =>
    have hself : s.slots.set i (s.slot i) = s.slots := by
      have hil : i < s.slots.length := by omega
      rw [State.slot, List.getD_eq_getElem _ _ hil, List.set_getElem_self]
    rw [State.tickSlot_of_not_counts (by simp [State.counts, hrun]), Slot.ticked_of_stopped hrun,
      Slot.firing_of_stopped hrun, hself, List.append_nil]
    rfl
  | true =>
    have hcounts : s.counts i = true := (s.counts_iff i).mpr ⟨h.lt_nreg_of_run hi hrun, hrun⟩
    rw [Slot.ticked_of_run hrun]
    cases hf : (s.slot i).fires with
    | true =>
      have hfiring : (s.slot i).firing = [.callback (s.slot i).cb (s.slot i).id] := by simp [Slot.firing, hrun, hf]
      rw [State.tickSlot_of_fires hcounts hf, hfiring]
      rfl
    | false =>
      have hfiring : (s.slot i).firing = [] := by simp [Slot.firing, hf]
      rw [State.tickSlot_of_not_fires hcounts hf, hfiring, List.append_nil]
      rfl

end Sys2Proof.Machine
end

section
/-! One whole tick ISR whose callbacks only return (40_timer R146-R149). -/

namespace Sys2Proof.Machine

/-- A schedule of n slot steps and of returns from callbacks. -/
def TickSchedule (n : Nat) (ms : List Move) : Prop :=
  (∀ m ∈ ms, m = .tickScan ∨ m = .software (encode .ret)) ∧ (ms.filter (· = .tickScan)).length = n

theorem TickSchedule.append {a b : Nat} {ms ms' : List Move} (h : TickSchedule a ms) (h' : TickSchedule b ms') :
    TickSchedule (a + b) (ms ++ ms') := by
  obtain ⟨hm, hn⟩ := h
  obtain ⟨hm', hn'⟩ := h'
  refine ⟨fun m hmem => (List.mem_append.mp hmem).elim (hm m) (hm' m), ?_⟩
  rw [List.filter_append, List.length_append, hn, hn']

theorem TickSchedule.scan : TickSchedule 1 [.tickScan] := ⟨by simp, by decide⟩

theorem TickSchedule.scan_ret : TickSchedule 1 [.tickScan, .software (encode .ret)] := ⟨by simp, by decide⟩

/-- The tick ISR once slot i is behind it; c is where the callback's routine stands. -/
def State.pastSlot (i c : Nat) (s : State) : State :=
  { s with
    slots := s.slots.set i (s.slot i).ticked
    trace := s.trace ++ (s.slot i).firing
    isr := .tick (i + 1)
    cbPos := c }

theorem State.pastSlot_slot_same {s : State} {i : Nat} (c : Nat) (hi : i < s.slots.length) :
    (s.pastSlot i c).slot i = (s.slot i).ticked :=
  State.slot_setSlot_same _ hi

theorem State.pastSlot_slot_other (s : State) {i j : Nat} (c : Nat) (hj : j ≠ i) :
    (s.pastSlot i c).slot j = s.slot j :=
  State.slot_setSlot_other s _ hj

theorem State.Inv.of_take {s s' : State} {m : Move} (h : s.Inv) (ht : s.take m = .next s') : s'.Inv :=
  (State.took_of_take ht).elim (State.took_inv h)

/-- The slot step at `Tick(i)` and, when it invokes a callback, the callback's `RET` (40_timer R147, 43_system R234).
-/
theorem State.Inv.exists_pastSlot {s : State} (h : s.Inv) (hf : s.fault = FaultSet.empty) (hp : s.program = none)
    {i : Nat} (hisr : s.isr = .tick i) (hi : i < s.cfg.nTimers) :
    ∃ ms c, TickSchedule 1 ms ∧ (s.pastSlot i c).Inv
      ∧ ∀ rest, s.follow (ms ++ rest) = (s.pastSlot i c).follow rest := by
  have hany : s.fault.any = false := (FaultSet.any_eq_false_iff _).mpr hf
  have hscan : s.take .tickScan = .next (s.tickSlot i) := by
    have took := State.Took.tickScan s i hisr
    rw [State.tickScan, if_pos hi] at took
    exact State.take_of_took (fun _ => hany) took
  have heq := h.tickSlot_eq hi
  have hinv := h.of_take hscan
  have hfollow := State.follow_cons h.config hscan
  by_cases hn : (s.slot i).firing = []
  · have hpast : s.tickSlot i = s.pastSlot i s.cbPos := by simp only [heq, hn, if_true, State.pastSlot]
    rw [hpast] at hinv hfollow
    exact ⟨_, _, .scan, hinv, hfollow⟩
  · simp only [if_neg hn] at heq
    have hcb : (s.tickSlot i).isr = .callback i := by rw [heq]
    have hret : (s.tickSlot i).take (.software (encode .ret)) = .next (s.pastSlot i 0) := by
      have hany' : (s.tickSlot i).fault.any = false := by rw [heq]; exact hany
      have hp' : (s.tickSlot i).program = none := by rw [heq]; exact hp
      have hd : decodeOp (encode .ret) = .ok .ret := by decide
      rw [State.take_software hany' hp' (.inl ⟨i, hcb⟩), State.issue, hd]
      simp only [exec, execRet, hcb]
      rw [heq]
      rfl
    exact ⟨_, _, .scan_ret, hinv.of_take hret, fun rest =>
      (hfollow _).trans (State.follow_cons hinv.config hret rest)⟩

/-- What the tick ISR has done when it returns, from `Tick(i)` on. -/
structure State.TickDone (i : Nat) (s s' : State) : Prop where
  isr : s'.isr = .none
  ie : s'.ie = true
  cmp : s'.cmp = s.cmp + s.cfg.pTick
  main : s'.main = s.main
  events : s'.events = s.events
  before : ∀ j < i, s'.slot j = s.slot j
  slot : ∀ j < s.cfg.nTimers, i ≤ j → s'.slot j = (s.slot j).ticked
  trace : s'.trace = s.trace ++ (List.range' i (s.cfg.nTimers - i)).flatMap fun j => (s.slot j).firing

/-- The final step alone (40_timer R149). -/
theorem State.tickDone_final (s : State) : s.TickDone s.cfg.nTimers s.tickFinal where
  isr := rfl
  ie := rfl
  cmp := rfl
  main := rfl
  events := rfl
  before _ _ := rfl
  slot _ hj hn := absurd hj (Nat.not_lt_of_le hn)
  trace := by rw [Nat.sub_self]; exact (List.append_nil _).symm

/-- Slot i first, then the slots after it. -/
theorem State.TickDone.of_pastSlot {s s' : State} {i c : Nat} (hlen : i < s.slots.length) (hi : i < s.cfg.nTimers)
    (h : (s.pastSlot i c).TickDone (i + 1) s') : s.TickDone i s' where
  isr := h.isr
  ie := h.ie
  cmp := h.cmp
  main := h.main
  events := h.events
  before j hj := (h.before j (by omega)).trans (s.pastSlot_slot_other c (by omega))
  slot j hj hij := by
    rcases Nat.eq_or_lt_of_le hij with rfl | hlt
    · rw [h.before i (Nat.lt_succ_self i), State.pastSlot_slot_same c hlen]
    · rw [h.slot j hj hlt, s.pastSlot_slot_other c (by omega)]
  trace := by
    have hrest : (List.range' (i + 1) (s.cfg.nTimers - (i + 1))).flatMap (fun j => ((s.pastSlot i c).slot j).firing)
        = (List.range' (i + 1) (s.cfg.nTimers - (i + 1))).flatMap fun j => (s.slot j).firing := by
      refine List.flatMap_congr fun j hj => ?_
      have hij := (List.mem_range'_1.mp hj).1
      rw [s.pastSlot_slot_other c (by omega)]
    have hsplit : List.range' i (s.cfg.nTimers - i) = i :: List.range' (i + 1) (s.cfg.nTimers - (i + 1)) := by
      rw [← List.range'_succ]
      congr 1
      omega
    rw [h.trace, hsplit, List.flatMap_cons, ← List.append_assoc]
    exact congrArg (_ ++ ·) hrest

/-- From `Tick(i)` the ISR comes to its end, by the number of slots to come (40_timer R146). -/
theorem State.Inv.exists_tickDone {s : State} {i k : Nat} (h : s.Inv) (hf : s.fault = FaultSet.empty)
    (hp : s.program = none) (hisr : s.isr = .tick i) (hk : i + k = s.cfg.nTimers) :
    ∃ ms s', TickSchedule (k + 1) ms ∧ s.follow ms = .next s' ∧ s.TickDone i s' := by
  induction k generalizing s i with
  | zero =>
    obtain rfl : i = s.cfg.nTimers := hk
    have took := State.Took.tickScan s _ hisr
    rw [State.tickScan, if_neg (Nat.lt_irrefl _)] at took
    have hany : s.fault.any = false := (FaultSet.any_eq_false_iff _).mpr hf
    have hfollow := State.follow_cons h.config (State.take_of_took (fun _ => hany) took) []
    exact ⟨_, s.tickFinal.withMoves [], .scan, hfollow, { s.tickDone_final with }⟩
  | succ k ih =>
    have hi : i < s.cfg.nTimers := by omega
    obtain ⟨hlen, -⟩ := h.pool
    obtain ⟨ms₁, c, hms₁, hinv, hpast⟩ := h.exists_pastSlot hf hp hisr hi
    obtain ⟨ms₂, s', hms₂, hfollow, hdone⟩ :=
      ih (s := s.pastSlot i c) (i := i + 1) hinv hf hp rfl (by show i + 1 + k = s.cfg.nTimers; omega)
    refine ⟨ms₁ ++ ms₂, s', ?_, (hpast ms₂).trans hfollow, hdone.of_pastSlot (by omega) hi⟩
    rw [Nat.add_comm]
    exact hms₁.append hms₂

/-- Settles O28: the whole ISR from `Tick(0)`. -/
theorem tickIsrCountsEverySlotOnce : Obligations.TickIsrCountsEverySlotOnce := by
  intro s h hf hp hisr
  obtain ⟨ms, s', ⟨hmoves, hcount⟩, hfollow, hdone⟩ := h.exists_tickDone hf hp hisr (Nat.zero_add _)
  refine ⟨ms, s', hmoves, hcount, hfollow, hdone.isr, hdone.ie, hdone.cmp, hdone.main, hdone.events, fun i hi => ?_, ?_⟩
  · rw [hdone.slot i hi (Nat.zero_le i)]
    refine ⟨fun hrun => Slot.ticked_of_stopped hrun, fun hrun hr => ?_, fun hrun hr => ?_⟩
    · rw [Slot.ticked_of_run hrun, Slot.counted_last hr]
    · rw [Slot.ticked_of_run hrun, Slot.counted_more hr]
  · rw [hdone.trace, List.range_eq_range', List.filterMap_eq_flatMap_toList]
    refine congrArg (s.trace ++ ·) (List.flatMap_congr fun i _ => ?_)
    rw [Slot.firing_eq]
    exact Eq.symm (apply_ite Option.toList ..)

end Sys2Proof.Machine
end

section
/-! The frame of the instructions: what each leaves unchanged, by the rule of each (40_timer, 41_dispatcher,
42_transport, 43_system, 60_exceptions R258). -/

namespace Sys2Proof.Machine

/-! ## What no instruction writes -/

/-- What every instruction leaves: the configuration, `CMP`, data memory and the model's own fields; and it only
appends to the trace. -/
structure State.KeptByInstr (s s' : State) : Prop where
  eq : s' = { s' with
    cfg := s.cfg, cmp := s.cmp, dm := s.dm, program := s.program, mainPos := s.mainPos, cbPos := s.cbPos
    moves := s.moves }
  trace : s.trace <+: s'.trace

theorem State.KeptByInstr.of_transport {t : Bus} {s s' : State} {m : Metrics}
    (h : State.KeptByTransport t { s with met := m } s') : s.KeptByInstr s' where
  eq := by rw [h.eq]; cases t <;> rfl
  trace := h.trace

theorem exec_keptByInstr {i : Instr} {s s' : State} (h : exec i s = .next s') : s.KeptByInstr s' := by
  cases i with
  | register id cb =>
    simp only [exec, execRegister] at h
    split at h
    · cases h; exact ⟨rfl, List.prefix_append ..⟩
    · split at h <;> cases h <;> exact ⟨rfl, List.prefix_append ..⟩
  | start id dur => simp only [exec, execStart] at h; split at h <;> cases h <;> exact ⟨rfl, List.prefix_append ..⟩
  | stop id => simp only [exec, execStop] at h; split at h <;> cases h <;> exact ⟨rfl, List.prefix_append ..⟩
  | elapsed id => simp only [exec, execElapsed] at h; split at h <;> cases h <;> exact ⟨rfl, List.prefix_append ..⟩
  | post mask => simp only [exec, execPost] at h; split at h <;> cases h <;> exact ⟨rfl, List.prefix_append ..⟩
  | enq t payload dests => exact .of_transport (execEnq_kept h)
  | ret =>
    simp only [exec, execRet] at h
    split at h
    · cases h; exact ⟨rfl, List.prefix_rfl⟩
    · cases h; exact ⟨rfl, List.prefix_rfl⟩
    · split at h <;> cases h
      · exact ⟨rfl, List.prefix_rfl⟩
      · exact ⟨rfl, List.prefix_append ..⟩
    · cases h
    · cases h
  | csenter => cases h; exact ⟨rfl, List.prefix_append ..⟩
  | csexit v => simp only [exec, execCsexit] at h; split at h <;> cases h <;> exact ⟨rfl, List.prefix_append ..⟩
  | rdmetric sel => cases h; exact ⟨rfl, List.prefix_append ..⟩
  | tick => cases h; exact ⟨rfl, List.prefix_rfl⟩
  | bytedone t v =>
    simp only [exec, execBytedone] at h
    split at h
    · cases h
      exact .of_transport (m := s.met) ((State.modXport_kept t s _).trans (State.emit_kept t _ _))
    · cases h

/-! ## `START` and `STOP` -/

/-- A write of the slot that `find` names leaves the other slots. -/
theorem State.setSlot_found {s : State} {id : Byte} {i : Nat} (h : s.find id = some i) (w : Slot) :
    (s.setSlot i w).slots.length = s.slots.length
      ∧ (∀ k, s.find id ≠ some k → (s.setSlot i w).slot k = s.slot k)
      ∧ ∀ k, s.find id = some k → i = k ∧ (s.setSlot i w).slot k = w := by
  refine ⟨List.length_set, fun k hk => State.slot_setSlot_other s w fun e => hk (e ▸ h), fun k hk => ?_⟩
  obtain rfl : i = k := Option.some.inj (h.symm.trans hk)
  exact ⟨rfl, State.slot_setSlot_same w (State.find_lt h)⟩

/-! ## `ENQ` -/

/-- What an `ENQ` of such a payload and such destinations leaves of its own transport: the pending flag, the received
byte, the rows' number, every row but row `wr` and the zero-length ones that an Idle transport's `StartRow` retires,
and the entries of row `wr` beyond the written ones (42_transport R192, R193, R196). -/
structure Transport.KeptByEnq (payload : List Byte) (dests : List Addr) (x x' : Transport) : Prop where
  bcPend : x'.bcPend = x.bcPend
  rxData : x'.rxData = x.rxData
  rowsLength : x'.rows.length = x.rows.length
  row : ∀ r, r ≠ x.wr → x'.row r = x.row r
    ∨ x.phase = .idle ∧ (x.row r).txLen = 0x00#8 ∧ (x.row r).rxLen = 0x00#8
      ∧ x'.row r = { x.row r with txLen := 0xFF#8 }
  data : ∀ j, payload.length ≤ j → (x'.row x.wr).data[j]? = (x.row x.wr).data[j]?
  dest : ∀ j, dests.length ≤ j → (x'.row x.wr).dest[j]? = (x.row x.wr).dest[j]?

theorem Transport.KeptByEnq.refl (payload : List Byte) (dests : List Addr) (x : Transport) :
    x.KeptByEnq payload dests x :=
  ⟨rfl, rfl, rfl, fun _ _ => .inl rfl, fun _ _ => rfl, fun _ _ => rfl⟩

/-- The entries beyond the new ones are stale (42_transport R193). -/
theorem overlay_getElem?_of_le {α : Type} (new old : List α) {j : Nat} (h : new.length ≤ j) :
    (overlay new old)[j]? = old[j]? := by
  rw [overlay, List.getElem?_append_right h, List.getElem?_drop, Nat.add_sub_of_le h]

/-- A row written beyond the ring stays as it is (log 11). -/
theorem Transport.row_setRow_of_le (x : Transport) {r : Nat} (w : Row) (h : x.rows.length ≤ r) (q : Nat) :
    (x.setRow r w).row q = x.row q := by
  rw [Transport.row, Transport.setRow_rows, List.set_eq_of_length_le h, Transport.row]

/-- The row write alone (42_transport R192, R193). -/
theorem Transport.append_keptByEnq (x : Transport) (c : BusConfig) (payload : List Byte) (dests : List Addr) :
    x.KeptByEnq payload dests (x.append c payload dests) := by
  have hrow : ∀ r, r ≠ x.wr → (x.append c payload dests).row r = x.row r := fun r hr => x.row_setRow_other _ hr
  rcases Nat.lt_or_ge x.wr x.rows.length with hin | hout
  · have hwr : (x.append c payload dests).row x.wr = (x.row x.wr).fill payload dests := Transport.row_setRow_same _ hin
    refine ⟨rfl, rfl, List.length_set, fun r hr => .inl (hrow r hr), fun j hj => ?_, fun j hj => ?_⟩
    · rw [hwr]; exact overlay_getElem?_of_le _ _ hj
    · rw [hwr]; exact overlay_getElem?_of_le _ _ hj
  · have hwr : (x.append c payload dests).row x.wr = x.row x.wr := x.row_setRow_of_le _ hout _
    exact ⟨rfl, rfl, List.length_set, fun r hr => .inl (hrow r hr), fun j _ => by rw [hwr], fun j _ => by rw [hwr]⟩

/-- The row write and the start of an Idle transport (42_transport R194, R196). -/
theorem Transport.KeptByEnq.startRow {payload : List Byte} {dests : List Addr} {c : BusConfig} {x x' : Transport}
    (hidle : x.phase = .idle) (k : (x.append c payload dests).KeptByStartRow x') : x.KeptByEnq payload dests x' := by
  have h := x.append_keptByEnq c payload dests
  have hwr : (x'.row x.wr).data = ((x.append c payload dests).row x.wr).data
      ∧ (x'.row x.wr).dest = ((x.append c payload dests).row x.wr).dest := by
    rcases k.row x.wr with e | ⟨-, -, e⟩ <;> rw [e] <;> exact ⟨rfl, rfl⟩
  refine ⟨k.bcPend, k.rxData, k.rowsLength.trans h.rowsLength, fun r hr => ?_, fun j hj => ?_, fun j hj => ?_⟩
  · have hsame : (x.append c payload dests).row r = x.row r := x.row_setRow_other _ hr
    have hkept := k.row r
    rw [hsame] at hkept
    exact hkept.imp_right fun hretired => ⟨hidle, hretired⟩
  · rw [hwr.1]; exact h.data j hj
  · rw [hwr.2]; exact h.dest j hj

/-- What `ENQ` leaves of its transport; on a busy one it writes the row and moves `wr`, and posts nothing
(42_transport R192, R194). -/
theorem execEnq_keptByEnq {s s' : State} {t : Bus} {payload : List Byte} {dests : List Addr}
    (h : execEnq t payload dests s = .next s') :
    (s.xport t).KeptByEnq payload dests (s'.xport t)
      ∧ ((s.xport t).phase ≠ .idle → s'.events = s.events
        ∧ s'.xport t = { s.xport t with rows := (s'.xport t).rows, wr := (s'.xport t).wr }) := by
  unfold execEnq at h
  split at h
  · cases h; rw [State.xport_finish]; exact ⟨.refl .., fun _ => ⟨rfl, rfl⟩⟩
  · split at h
    · cases h
      have hx : (s.count (Metric.enqFull t)).xport t = s.xport t := by cases t <;> rfl
      rw [State.xport_finish, hx]
      exact ⟨.refl .., fun _ => ⟨rfl, rfl⟩⟩
    · have happ : (s.appendRow t payload dests).xport t = (s.xport t).append (s.cfg.bus t) payload dests :=
        State.xport_appendRow_same ..
      cases h
      rw [State.xport_finish]
      split
      · next hidle =>
        have hstart := State.startRow_keptByStartRow t (s.appendRow t payload dests)
        rw [happ] at hstart
        exact ⟨.startRow hidle hstart, fun hn => absurd hidle hn⟩
      · rw [happ]
        exact ⟨Transport.append_keptByEnq .., fun _ => ⟨State.appendRow_events .., rfl⟩⟩

theorem Metrics.get_bump_other (m : Metrics) {j k : Metric} (h : k ≠ j) : (m.bump j).get k = m.get k := by
  cases j <;> cases k <;> first | rfl | exact absurd rfl h

/-- The metric that `ENQ` may count is its own transport's (42_transport R192). -/
theorem execEnq_met {s s' : State} {t : Bus} {payload : List Byte} {dests : List Addr}
    (h : execEnq t payload dests s = .next s') {k : Metric} (hk : k ≠ Metric.enqFull t) :
    s'.met.get k = s.met.get k := by
  unfold execEnq at h
  split at h
  · cases h; rfl
  · split at h
    · cases h
      exact Metrics.get_bump_other _ hk
    · cases h
      split
      · exact congrArg (Metrics.get · k) ((State.startRow_kept t _).met.trans (s.appendRow_met t payload dests))
      · exact congrArg (Metrics.get · k) (s.appendRow_met t payload dests)

/-! ## `POST` -/

/-- `E | mask` keeps the bits outside the mask (41_dispatcher R171). -/
theorem State.orEvents_getLsbD (s : State) {mask : Word} {b : Nat} (h : mask.getLsbD b = false) :
    (s.orEvents mask).events.getLsbD b = s.events.getLsbD b := by
  rw [State.orEvents_events, BitVec.getLsbD_or, h, Bool.or_false]

/-! ## Every instruction -/

/-- Settles O54, arm by arm. -/
theorem instructionsWriteOnlyWhatTheirRulesList : Obligations.InstructionsWriteOnlyWhatTheirRulesList := by
  intro i s s' h
  have hkept := exec_keptByInstr h
  refine ⟨fun a => congrArg (Memory.read · a) (exec_dm h), hkept.eq, hkept.trace, ?_⟩
  cases i with
  | register id cb =>
    simp only [exec, execRegister] at h
    split at h
    · cases h; exact ⟨rfl, rfl, fun _ _ => rfl, rfl, rfl⟩
    · split at h <;> cases h
      · exact ⟨rfl, rfl, fun _ _ => rfl, rfl, rfl⟩
      · exact ⟨rfl, List.length_set, fun k hk => State.slot_setSlot_other s _ hk, rfl, rfl⟩
  | start id dur =>
    simp only [exec, execStart] at h
    split at h
    · next hf => cases h; exact ⟨rfl, rfl, fun _ _ => rfl, fun k hk => by rw [hf] at hk; cases hk⟩
    · next i hf =>
      cases h
      obtain ⟨hlen, hother, hfound⟩ :=
        State.setSlot_found hf { s.slot i with run := true, elapsed := 0#16, remaining := dur }
      refine ⟨rfl, hlen, hother, fun k hk => ?_⟩
      obtain ⟨rfl, hw⟩ := hfound k hk
      rw [State.slot_finish, hw]
  | stop id =>
    simp only [exec, execStop] at h
    split at h
    · next hf => cases h; exact ⟨rfl, rfl, fun _ _ => rfl, fun k hk => by rw [hf] at hk; cases hk⟩
    · next i hf =>
      cases h
      obtain ⟨hlen, hother, hfound⟩ := State.setSlot_found hf { s.slot i with run := false }
      refine ⟨rfl, hlen, hother, fun k hk => ?_⟩
      obtain ⟨rfl, hw⟩ := hfound k hk
      rw [State.slot_finish, hw]
  | elapsed id => simp only [exec, execElapsed] at h; split at h <;> cases h <;> rfl
  | post mask =>
    simp only [exec, execPost] at h
    split at h
    · cases h; exact ⟨rfl, fun _ _ => rfl, rfl⟩
    · cases h; exact ⟨rfl, fun b hb => s.orEvents_getLsbD hb, rfl⟩
  | enq t payload dests =>
    have hframe := execEnq_kept h
    obtain ⟨hx, hbusy⟩ := execEnq_keptByEnq h
    have heq : s' = { s.setXport t (s'.xport t) with events := s'.events, met := s'.met, trace := s'.trace } := by
      cases t <;> exact hframe.eq
    exact ⟨heq, hframe.events, fun k hk => execEnq_met h hk, hx.bcPend, hx.rxData, hx.rowsLength, hx.row, hx.data,
      hx.dest, hbusy⟩
  | ret =>
    simp only [exec, execRet] at h
    refine ⟨fun k hi => ?_, fun hi hm => ?_, fun b hi hm => ?_⟩ <;> simp only [hi] at h
    · cases h; rfl
    · simp only [hm] at h; cases h; rw [hi]
    · simp only [hm] at h
      split at h <;> cases h
      · exact ⟨by rw [hi], rfl⟩
      · exact ⟨rfl, rfl⟩
  | csenter => cases h; rfl
  | csexit v => simp only [exec, execCsexit] at h; split at h <;> cases h <;> rfl
  | rdmetric sel => cases h; rfl
  | tick => cases h; rfl
  | bytedone t v =>
    simp only [exec, execBytedone] at h
    split at h
    · cases h; cases t <;> rfl
    · cases h

end Sys2Proof.Machine
end

section
/-! A timer along every schedule (40_timer R150): a move that neither starts nor stops it changes its slot and invokes
its callback only in the slot step that processes it. -/

namespace Sys2Proof.Machine

/-! ## The callbacks invoked for an identity -/

/-- The entry is the invocation of a callback for this identity (10_state R58). -/
def TraceEntry.calls (id : Byte) : TraceEntry → Bool
  | .callback _ j => decide (j = id)
  | _ => false

/-- The callbacks that have been invoked for this identity. -/
def State.callsOf (s : State) (id : Byte) : List TraceEntry := s.trace.filter (·.calls id)

theorem State.callsOf_of_trace_eq {s u : State} (h : u.trace = s.trace) (id : Byte) : u.callsOf id = s.callsOf id := by
  rw [State.callsOf, h, State.callsOf]

theorem State.callsOf_of_trace_append {s u : State} {added : List TraceEntry} (h : u.trace = s.trace ++ added)
    (id : Byte) :
    u.callsOf id = s.callsOf id ++ added.filter (·.calls id) := by
  rw [State.callsOf, h, List.filter_append, State.callsOf]

theorem State.callsOf_emit (s : State) {e : TraceEntry} {id : Byte} (h : e.calls id = false) :
    (s.emit e).callsOf id = s.callsOf id := by
  simp [State.callsOf, h]

@[simp] theorem State.callsOf_finish (s : State) (op : OpName) (st : Status) (v : Half) (id : Byte) :
    (s.finish op st v).callsOf id = s.callsOf id :=
  s.callsOf_emit rfl

@[simp] theorem State.callsOf_raiseFault (s : State) (f : FaultInfo) (id : Byte) :
    (s.raiseFault f).callsOf id = s.callsOf id :=
  s.callsOf_emit (e := .fault f) rfl

@[simp] theorem State.callsOf_modXport (s : State) (t : Bus) (f : Transport → Transport) (id : Byte) :
    (s.modXport t f).callsOf id = s.callsOf id :=
  State.callsOf_of_trace_eq (s.modXport_trace t f) id

@[simp] theorem State.callsOf_load (s : State) (t : Bus) (x : Byte) (id : Byte) :
    (s.load t x).callsOf id = s.callsOf id :=
  (State.callsOf_emit _ rfl).trans (s.callsOf_modXport t _ id)

theorem State.OnlyWires.callsOf {s u : State} (h : s.OnlyWires u) (id : Byte) : u.callsOf id = s.callsOf id := by
  obtain ⟨added, htrace, hwire⟩ := h
  have hnone : added.filter (·.calls id) = [] := List.filter_eq_nil_iff.mpr fun e he => by
    obtain ⟨t, x, rfl⟩ := hwire e he
    exact Bool.false_ne_true
  rw [State.callsOf_of_trace_append htrace, hnone, List.append_nil]

@[simp] theorem State.callsOf_nextRow (s : State) (t : Bus) (id : Byte) : (s.nextRow t).callsOf id = s.callsOf id :=
  ((State.startRow_onlyWires t _).callsOf id).trans (State.callsOf_of_trace_eq (s.completeRow_trace t) id)

theorem State.Reports.callsOf {s s' : State} {x : Answer} {op : OpName} {st : Status} {v : Half}
    (h : s.Reports x op st v) (hx : x = .next s') (id : Byte) : s'.callsOf id = s.callsOf id := by
  obtain ⟨u, hu, hwires⟩ := h
  cases hx.symm.trans hu
  exact (u.callsOf_finish op st v id).trans (hwires.callsOf id)

/-- No instruction invokes a callback. -/
theorem exec_callsOf {i : Instr} {s s' : State} (h : exec i s = .next s') (id : Byte) :
    s'.callsOf id = s.callsOf id := by
  cases i with
  | register j cb => obtain ⟨st, -, hr⟩ := execRegister_reports j cb s; exact hr.callsOf h id
  | start j dur => obtain ⟨st, -, hr⟩ := execStart_reports j dur s; exact hr.callsOf h id
  | stop j => obtain ⟨st, -, hr⟩ := execStop_reports j s; exact hr.callsOf h id
  | elapsed j => obtain ⟨st, -, v, -, hr⟩ := execElapsed_reports j s; exact hr.callsOf h id
  | post mask =>
    simp only [exec, execPost] at h
    split at h <;> cases h
    · exact s.callsOf_raiseFault _ id
    · exact State.callsOf_finish ..
  | enq t payload dests => obtain ⟨st, -, hr⟩ := execEnq_reports t payload dests s; exact hr.callsOf h id
  | ret =>
    rcases execRet_trace h with ht | ⟨f, ht⟩
    · exact State.callsOf_of_trace_eq ht id
    · exact (State.callsOf_of_trace_append ht id).trans (List.append_nil _)
  | csenter => cases h; exact State.callsOf_finish ..
  | csexit v => obtain ⟨st, -, hr⟩ := execCsexit_reports v s; exact hr.callsOf h id
  | rdmetric sel => cases h; exact State.callsOf_finish ..
  | tick => cases h; rfl
  | bytedone t v =>
    simp only [exec, execBytedone] at h
    split at h
    · cases h; exact (State.callsOf_emit _ rfl).trans (State.callsOf_modXport ..)
    · cases h

theorem State.bcSending_callsOf (t : Bus) (s : State) (id : Byte) : (s.bcSending t).callsOf id = s.callsOf id := by
  unfold State.bcSending
  simp only
  split
  · simp
  · split <;> simp

/-- The ISR body invokes no callback, whether it ends at the raise or not (42_transport R199-R202). -/
theorem State.bcBody_callsOf (t : Bus) (s : State) (id : Byte) :
    ∃ u : State, (s.bcBody t = .ok u ∨ s.bcBody t = .error u) ∧ u.callsOf id = s.callsOf id := by
  unfold State.bcBody
  split
  · exact ⟨_, .inl rfl, s.bcSending_callsOf t id⟩
  · unfold State.bcReceiving
    simp only
    rcases s.memWrite_cases ((s.currentRow t).destAt (s.xport t).rxIdx) (s.xport t).rxData with ⟨-, hm⟩ | ⟨-, hm⟩ <;>
      rw [hm]
    · have hstored : State.callsOf (s.stored ((s.currentRow t).destAt (s.xport t).rxIdx) (s.xport t).rxData) id
          = s.callsOf id := s.callsOf_emit (e := .mem _ _) rfl
      simp only
      split
      · exact ⟨_, .inl rfl, by simpa using hstored⟩
      · exact ⟨_, .inl rfl, by simpa using hstored⟩
    · exact ⟨_, .inr rfl, s.callsOf_raiseFault _ id⟩
  · exact ⟨s, .inl rfl, rfl⟩

theorem State.byteComplete_callsOf (t : Bus) (s : State) (id : Byte) :
    (s.byteComplete t).callsOf id = s.callsOf id := by
  have henter := State.callsOf_of_trace_eq (s.enterInterrupt_trace (.bc t)) id
  unfold State.byteComplete
  obtain ⟨u, hb | hb, hu⟩ := (s.enterInterrupt (.bc t)).bcBody_callsOf t id <;> rw [hb] <;> exact hu.trans henter

theorem State.scanBit_callsOf (s : State) (b : Fin 32) (id : Byte) : (s.scanBit b).callsOf id = s.callsOf id := by
  unfold State.scanBit
  split
  · exact State.callsOf_emit (s.clearEvent b) rfl
  · rfl

/-! ## The slots -/

theorem State.slot_of_slots_eq {s s' : State} (h : s'.slots = s.slots) (k : Nat) : s'.slot k = s.slot k := by
  rw [State.slot, h, State.slot]

/-- Only `START` and `STOP` of its identity write a registered slot (40_timer R142-R145). -/
theorem exec_slot {i : Instr} {s s' : State} {k : Nat} (h : exec i s = .next s') (hk : k < s.nreg)
    (hstart : ∀ d, i ≠ .start (s.slot k).id d) (hstop : i ≠ .stop (s.slot k).id) : s'.slot k = s.slot k := by
  obtain ⟨-, -, -, hframe⟩ := instructionsWriteOnlyWhatTheirRulesList i s s' h
  cases i with
  | register id cb => obtain ⟨-, -, hother, -⟩ := hframe; exact hother k (Nat.ne_of_lt hk)
  | start id dur =>
    obtain ⟨-, -, hother, -⟩ := hframe
    exact hother k fun hf => hstart dur (by rw [State.id_of_find_some hf])
  | stop id =>
    obtain ⟨-, -, hother, -⟩ := hframe
    exact hother k fun hf => hstop (by rw [State.id_of_find_some hf])
  | elapsed id => rw [hframe]; rfl
  | post mask => obtain ⟨heq, -⟩ := hframe; rw [heq]; rfl
  | enq t payload dests => exact State.slot_of_slots_eq (execEnq_kept h).slots k
  | ret =>
    simp only [exec, execRet] at h
    split at h
    · cases h; rfl
    · cases h; rfl
    · split at h <;> cases h <;> rfl
    · cases h
    · cases h
  | csenter => rw [hframe]; rfl
  | csexit v => rw [hframe]; rfl
  | rdmetric sel => rw [hframe]; rfl
  | tick => rw [hframe]; rfl
  | bytedone t v => exact State.slot_of_slots_eq ((congrArg State.slots hframe).trans (State.setXport_slots ..)) k

theorem State.byteComplete_slots {s : State} {t : Bus} (hi : s.isr = .none) (hie : s.ie = true) :
    (s.byteComplete t).slots = s.slots := by
  rcases State.byteComplete_cases t hi hie with ⟨a, hx⟩ | ⟨u, s', -, hx, rfl | ⟨a, v, rfl⟩, hk⟩
  · rw [hx]; exact State.enterInterrupt_slots ..
  · rw [hx]; exact hk.slots
  · rw [hx]; exact hk.slots

theorem State.scanBit_slots (s : State) (b : Fin 32) : (s.scanBit b).slots = s.slots := by
  unfold State.scanBit
  split <;> rfl

/-! ## One move -/

/-- From s to s' slot k has been processed by n slot steps, and by nothing else. -/
structure State.TimerAfter (k n : Nat) (s s' : State) : Prop where
  slot : s'.slot k = Slot.ticked^[n] (s.slot k)
  calls : s'.callsOf (s.slot k).id = s.callsOf (s.slot k).id ++ (s.slot k).firings n

/-- Neither the slot nor the callbacks of its identity have changed. -/
theorem State.TimerAfter.same {k : Nat} {s s' : State} (hslot : s'.slot k = s.slot k)
    (hcalls : s'.callsOf (s.slot k).id = s.callsOf (s.slot k).id) : s.TimerAfter k 0 s' :=
  ⟨hslot, hcalls.trans (List.append_nil _).symm⟩

theorem State.TimerAfter.of_slots_eq {k : Nat} {s s' : State} (hslots : s'.slots = s.slots)
    (hcalls : s'.callsOf (s.slot k).id = s.callsOf (s.slot k).id) : s.TimerAfter k 0 s' :=
  .same (State.slot_of_slots_eq hslots k) hcalls

theorem State.TimerAfter.trans {k n m : Nat} {s u s' : State} (h : s.TimerAfter k n u) (h' : u.TimerAfter k m s') :
    s.TimerAfter k (n + m) s' where
  slot := by rw [h'.slot, h.slot, Nat.add_comm, Function.iterate_add_apply]
  calls := by
    have hid : (u.slot k).id = (s.slot k).id := by rw [h.slot]; exact (Slot.iterate_ticked_keeps n _).2
    rw [← hid, h'.calls, hid, h.calls, h.slot, Slot.firings_add, List.append_assoc]

/-- The slot stays registered. -/
theorem State.TimerAfter.lt_nreg {k n : Nat} {s s' : State} (h : s.TimerAfter k n s') (hs : s.Inv) (hs' : s'.Inv)
    (hcfg : s'.cfg = s.cfg) (hk : k < s.nreg) : k < s'.nreg := by
  obtain ⟨-, hle, hregs, -⟩ := hs.pool
  obtain ⟨-, -, hregs', -⟩ := hs'.pool
  have hreg := (Slot.iterate_ticked_keeps n (s.slot k)).1
  rw [← h.slot, hregs' k (by rw [hcfg]; omega), hregs k (by omega), decide_eq_true hk] at hreg
  exact of_decide_eq_true hreg

/-- The presentation neither starts nor stops the timer. -/
def LeavesTimer (id : Byte) (p : OpWords) : Prop :=
  (∀ d, decodeOp p ≠ .ok (.start id d)) ∧ decodeOp p ≠ .ok (.stop id)

/-- A move that is no slot step leaves a timer that it neither starts nor stops. -/
theorem State.Took.keepsTimer {s s' : State} {m : Move} {k : Nat} (took : s.Took m s') (hp : s.program = none)
    (hk : k < s.nreg) (hreset : m.isReset = false) (hscan : m ≠ .tickScan)
    (hsoft : ∀ p, m = .software p → LeavesTimer (s.slot k).id p) : s.TimerAfter k 0 s' := by
  have hnext : s.nextOp = none := by rw [State.nextOp, hp]; rfl
  cases took with
  | operation s hp hr hd hx =>
    obtain ⟨hstart, hstop⟩ := hsoft _ rfl
    have hslot := exec_slot hx hk (fun d e => hstart d (e ▸ hd)) (fun e => hstop (e ▸ hd))
    exact .same hslot (exec_callsOf hx _)
  | illegal s hp hr hd => exact .of_slots_eq rfl (State.callsOf_finish ..)
  | routine s hr hn hd hx => rw [hnext] at hn; cases hn
  | routineIllegal s hr hn hd => rw [hnext] at hn; cases hn
  | scan s b hi hm => exact .of_slots_eq (s.scanBit_slots b) (s.scanBit_callsOf b _)
  | tickEntry s hi hie hpend => exact .of_slots_eq rfl rfl
  | byteComplete s t hi hie hpend => exact .of_slots_eq (State.byteComplete_slots hi hie) (s.byteComplete_callsOf t _)
  | tickScan s i hi => exact absurd rfl hscan
  | tick s hd => exact .of_slots_eq rfl rfl
  | bytedone s t v hd hi =>
    exact .of_slots_eq (State.modXport_slots ..) ((State.callsOf_emit _ rfl).trans (State.callsOf_modXport ..))
  | externalWrite s a v => exact .of_slots_eq rfl rfl
  | externalReset s launch => cases hreset

theorem Slot.firing_filter_same (w : Slot) : w.firing.filter (·.calls w.id) = w.firing := by
  unfold Slot.firing
  split <;> simp [TraceEntry.calls]

theorem Slot.firing_filter_other {w : Slot} {id : Byte} (h : w.run = true → w.id ≠ id) :
    w.firing.filter (·.calls id) = [] := by
  unfold Slot.firing
  split
  · next hf =>
    have hrun : w.run = true := by simp only [Bool.and_eq_true] at hf; exact hf.1
    simp [TraceEntry.calls, h hrun]
  · rfl

/-- The step of `TSEQ` at `Tick(i)` processes slot i and no other registered slot (40_timer R147, R149). -/
theorem State.Inv.tickScan_timer {s : State} (h : s.Inv) {i k : Nat} (hk : k < s.nreg) :
    s.TimerAfter k (if i = k then 1 else 0) (s.tickScan i) := by
  obtain ⟨hlen, hle, -, hinj, -, -⟩ := h.pool
  unfold State.tickScan
  by_cases hi : i < s.cfg.nTimers
  · rw [if_pos hi, h.tickSlot_eq hi]
    by_cases hik : i = k
    · subst hik
      rw [if_pos rfl]
      refine ⟨State.slot_setSlot_same _ (by omega), (State.callsOf_of_trace_append rfl _).trans ?_⟩
      rw [Slot.firing_filter_same]
      exact congrArg (s.callsOf _ ++ ·) (List.append_nil _).symm
    · rw [if_neg hik]
      have hid : (s.slot i).run = true → (s.slot i).id ≠ (s.slot k).id := fun hrun he =>
        hik (hinj i (h.lt_nreg_of_run hi hrun) k hk he)
      refine .same (State.slot_setSlot_other s _ (Ne.symm hik)) ((State.callsOf_of_trace_append rfl _).trans ?_)
      rw [Slot.firing_filter_other hid, List.append_nil]
  · rw [if_neg hi, if_neg (by omega)]
    exact .of_slots_eq rfl rfl

/-- A move, by whether it processes the timer. -/
theorem State.Took.timer {s s' : State} {m : Move} {k : Nat} (took : s.Took m s') (h : s.Inv) (hp : s.program = none)
    (hk : k < s.nreg) (hreset : m.isReset = false) (hsoft : ∀ p, m = .software p → LeavesTimer (s.slot k).id p) :
    s.TimerAfter k (if m = .tickScan ∧ s.isr = .tick k then 1 else 0) s' := by
  by_cases hscan : m = .tickScan
  · subst hscan
    cases took with
    | tickScan s i hi => simpa [hi] using h.tickScan_timer (i := i) hk
  · rw [if_neg fun hc => hscan hc.1]
    exact took.keepsTimer hp hk hreset hscan hsoft

/-! ## A schedule -/

/-- No move writes the program (70_reset_and_hazards R293; log 8). -/
theorem State.Took.program {s s' : State} {m : Move} (h : s.Took m s') : s'.program = s.program := by
  cases h with
  | operation s hp hr hd hx => exact (congrArg State.program (exec_keptByInstr hx).eq :)
  | illegal s hp hr hd => rfl
  | routine s hr hn hd hx => exact (congrArg State.program (exec_keptByInstr hx).eq :).trans s.advance_program
  | routineIllegal s hr hn hd => exact s.advance_program
  | scan s b hi hm => unfold State.scanBit; split <;> rfl
  | tickEntry s hi hie hp => rfl
  | byteComplete s t hi hie hp =>
    rcases State.byteComplete_cases t hi hie with ⟨a, hx⟩ | ⟨u, s', -, hx, rfl | ⟨a, v, rfl⟩, hk⟩
    · rw [hx]; exact State.enterInterrupt_program ..
    · rw [hx]; exact hk.program
    · rw [hx]; exact hk.program
  | tickScan s i hi =>
    unfold State.tickScan State.tickSlot
    simp only
    repeat' split
    all_goals rfl
  | tick s hd => rfl
  | bytedone s t v hd hi => exact State.modXport_program ..
  | externalWrite s a v => rfl
  | externalReset s launch => rfl

/-- A schedule that can be followed begins with a move that is taken. -/
theorem State.exists_take_of_follow {s s' : State} {m : Move} {ms : List Move} (hc : s.cfg.wf = true)
    (h : s.follow (m :: ms) = .next s') : ∃ u, s.take m = .next u ∧ u.follow ms = .next s' := by
  have hstep : Sys2Proof.core.step (s.withMoves (m :: ms)) = (s.withMoves ms).take m :=
    step_eq (s := s.withMoves (m :: ms)) hc rfl
  cases hx : (s.withMoves ms).take m with
  | next u =>
    have ht : s.take m = .next (u.withMoves s.moves) := State.take_withMoves (s := s.withMoves ms) s.moves hx
    exact ⟨_, ht, (State.follow_cons hc ht ms).symm.trans h⟩
  | fault r =>
    simp only [State.follow, List.length_cons, Host.Core.run, hstep, hx] at h
    cases h
  | refused r =>
    simp only [State.follow, List.length_cons, Host.Core.run, hstep, hx] at h
    cases h

/-- Along a schedule that neither starts nor stops the timer and does not reset the block, the slot steps that process
it are all that touches it. -/
theorem State.Inv.follow_timer {s s' : State} {ms : List Move} {k : Nat} (h : s.Inv) (hp : s.program = none)
    (hk : k < s.nreg) (hreset : ∀ m ∈ ms, m.isReset = false)
    (hsoft : ∀ p, .software p ∈ ms → LeavesTimer (s.slot k).id p) (hfollow : s.follow ms = .next s') :
    s.TimerAfter k (s.visits k ms) s' := by
  induction ms generalizing s with
  | nil => cases hfollow; exact .of_slots_eq rfl rfl
  | cons m ms ih =>
    obtain ⟨u, ht, hrest⟩ := State.exists_take_of_follow h.config hfollow
    obtain ⟨-, took⟩ := State.took_of_take ht
    have hu : u.Inv := h.of_take ht
    have hfirst := took.timer h hp hk (hreset m List.mem_cons_self) fun p e => hsoft p (e ▸ List.mem_cons_self)
    have hid : (u.slot k).id = (s.slot k).id := by rw [hfirst.slot]; exact (Slot.iterate_ticked_keeps _ _).2
    have hnext := ih hu (took.program.trans hp) (hfirst.lt_nreg h hu took.cfg hk)
      (fun m hm => hreset m (List.mem_cons_of_mem _ hm))
      (fun p hmem => hid.symm ▸ hsoft p (List.mem_cons_of_mem _ hmem)) hrest
    simp only [State.visits, ht]
    exact hfirst.trans hnext

/-- Settles O27: the slot steps that process the timer, and what they make of its count. -/
theorem timerFiresOnceAtItsDuration : Obligations.TimerFiresOnceAtItsDuration := by
  intro s s' ms i h hp hi hrun helapsed hreset hsoft hfollow d n
  have hmoves : ∀ m ∈ ms, m.isReset = false := fun m hm => (Move.isReset_eq_false_iff m).mpr (hreset m hm)
  have hleaves : ∀ p, .software p ∈ ms → LeavesTimer (s.slot i).id p := fun p hmem =>
    hsoft p (List.mem_filterMap.mpr ⟨_, hmem, rfl⟩)
  have hafter := h.follow_timer hp hi hmoves hleaves hfollow
  have hzero : (s.slot i).elapsed.toNat = 0 := by rw [helapsed]; rfl
  have hfit : (s.slot i).elapsed.toNat + max (s.slot i).remaining.toNat 1 < 65536 := by
    have := (s.slot i).remaining.isLt
    omega
  obtain ⟨he, hr, hcalls⟩ := Slot.run_to_expiry n hrun hfit
  refine ⟨?_, ?_, ?_⟩
  · rw [hafter.slot, he, hzero, Nat.zero_add]
  · rw [hafter.slot, hr]
  · exact hafter.calls.trans (congrArg (_ ++ ·) hcalls)

end Sys2Proof.Machine
end

section
/-! The Event Set (41_dispatcher R171-R173, R178): what POST and the drain scan do to it, and who changes `E` and `main`
in any other move. -/

namespace Sys2Proof.Machine

/-! ## One operation, one scan step -/

theorem eventBit_getLsbD (b c : Fin 32) : (eventBit b).getLsbD c.val = decide (c = b) := by
  simp [eventBit, Fin.ext_iff, eq_comm]

theorem State.unmapped_iff (s : State) (mask : Word) :
    s.unmapped mask = true ↔ mask &&& ~~~s.cfg.definedMask ≠ 0#32 :=
  decide_eq_true_iff

/-- A bit is ready when it is defined and set (41_dispatcher R173). -/
theorem State.eventReady_iff (s : State) (b : Fin 32) :
    s.eventReady b = true ↔ s.cfg.definedMask.getLsbD b.val = true ∧ s.events.getLsbD b.val = true :=
  Bool.and_eq_true_iff

/-- Settles O29, by whether the mask is mapped. -/
theorem postSetsItsBits : Obligations.PostSetsItsBits := by
  intro mask s
  constructor
  · intro hmask
    simp only [exec, execPost, if_pos ((s.unmapped_iff mask).mpr hmask)]
    rfl
  · intro hmask
    simp only [exec, execPost, if_neg (mt (s.unmapped_iff mask).mp (not_not_intro hmask))]
    rfl

/-- A ready bit is cleared and dispatched. -/
theorem State.scanBit_of_ready {s : State} {b : Fin 32} (h : s.eventReady b = true) :
    s.scanBit b = { s with
      events := s.events &&& ~~~eventBit b
      trace := s.trace ++ [.dispatch b (s.cfg.handler b)]
      main := .handler b
      mainPos := 0 } :=
  if_pos h

/-- At any other bit the scan moves on. -/
theorem State.scanBit_of_not_ready {s : State} {b : Fin 32} (h : s.eventReady b = false) :
    s.scanBit b = { s with main := .scan (b + 1) } :=
  if_neg (Bool.eq_false_iff.mp h)

/-- Settles O30, by whether the bit is ready. -/
theorem scanTestsAndClearsOneBit : Obligations.ScanTestsAndClearsOneBit := by
  intro s rest b hw hi hm
  have hstep : step s = .next ((s.withMoves rest).scanBit b) := step_of_took hw (.scan (s.withMoves rest) b hi hm)
  have hready := (s.withMoves rest).eventReady_iff b
  refine ⟨fun hb => ?_, fun hb => ⟨b + 1, Fin.val_add b 1, ?_⟩⟩
  · rw [hstep, State.scanBit_of_ready (hready.mpr hb)]
    rfl
  · rw [hstep, State.scanBit_of_not_ready (Bool.eq_false_iff.mpr (mt hready.mp hb))]

/-! ## What the other moves do to `E` and to `main` -/

/-- The main context as it was, or its routine has returned: to `Scan(0)` or to the bit after the handler's (43_system
R232, R233). -/
def State.MainKeptOrReturned (s s' : State) : Prop :=
  s'.main = s.main ∨ s.main = .init ∧ s'.main = .scan 0 ∨ ∃ b, s.main = .handler b ∧ s'.main = .scan (b + 1)

/-- `E` as it was, or with the completion event of transport t posted (41_dispatcher R172). -/
def State.MayPostDone (t : Bus) (s s' : State) : Prop :=
  s'.events = s.events ∨ s'.events = s.events ||| eventBit (s.cfg.bus t).evDone

/-- `RET` leaves `E` (43_system R231). -/
theorem execRet_events_and_main {s s' : State} (h : execRet s = .next s') :
    s'.events = s.events ∧ s.MainKeptOrReturned s' := by
  unfold execRet at h
  split at h
  · cases h; exact ⟨rfl, .inl rfl⟩
  · next hm => cases h; exact ⟨rfl, .inr (.inl ⟨hm, rfl⟩)⟩
  · next b hi hm =>
    split at h <;> cases h
    · exact ⟨rfl, .inr (.inr ⟨b, hm, rfl⟩)⟩
    · exact ⟨rfl, .inl rfl⟩
  · cases h
  · cases h

/-- Only `POST` and `ENQ` write `E`, only `RET` writes `main` (41_dispatcher R171, R172; 43_system R231). -/
theorem exec_events_and_main {i : Instr} {s s' : State} (h : exec i s = .next s') :
    (s'.events = s.events ∨ (∃ mask, i = .post mask ∧ s'.events = s.events ||| mask)
      ∨ ∃ t p d, i = .enq t p d ∧ s.MayPostDone t s') ∧ s.MainKeptOrReturned s' := by
  obtain ⟨-, -, -, hframe⟩ := instructionsWriteOnlyWhatTheirRulesList i s s' h
  cases i with
  | register id cb => exact ⟨.inl (congrArg State.events hframe.1 :), .inl (congrArg State.main hframe.1 :)⟩
  | start id dur => exact ⟨.inl (congrArg State.events hframe.1 :), .inl (congrArg State.main hframe.1 :)⟩
  | stop id => exact ⟨.inl (congrArg State.events hframe.1 :), .inl (congrArg State.main hframe.1 :)⟩
  | post mask =>
    simp only [exec, execPost] at h
    split at h <;> cases h
    · exact ⟨.inl rfl, .inl rfl⟩
    · exact ⟨.inr (.inl ⟨mask, rfl, rfl⟩), .inl rfl⟩
  | enq t p d => exact ⟨.inr (.inr ⟨t, p, d, rfl, (execEnq_kept h).events⟩), .inl (execEnq_kept h).main⟩
  | ret => exact ⟨.inl (execRet_events_and_main h).1, (execRet_events_and_main h).2⟩
  | bytedone t v =>
    exact ⟨.inl ((congrArg State.events hframe :).trans (State.setXport_events ..)),
      .inl ((congrArg State.main hframe :).trans (State.setXport_main ..))⟩
  | elapsed id => exact ⟨.inl (congrArg State.events hframe :), .inl (congrArg State.main hframe :)⟩
  | csenter => exact ⟨.inl (congrArg State.events hframe :), .inl (congrArg State.main hframe :)⟩
  | csexit v => exact ⟨.inl (congrArg State.events hframe :), .inl (congrArg State.main hframe :)⟩
  | rdmetric sel => exact ⟨.inl (congrArg State.events hframe :), .inl (congrArg State.main hframe :)⟩
  | tick => exact ⟨.inl (congrArg State.events hframe :), .inl (congrArg State.main hframe :)⟩

theorem State.tickScan_events_and_main (s : State) (i : Nat) :
    (s.tickScan i).events = s.events ∧ (s.tickScan i).main = s.main := by
  unfold State.tickScan State.tickSlot
  simp only
  repeat' split
  all_goals exact ⟨rfl, rfl⟩

/-- The byte-complete ISR posts the completion of its transport or nothing (42_transport R197, R199). -/
theorem State.byteComplete_events_and_main {s : State} {t : Bus} (hi : s.isr = .none) (hie : s.ie = true) :
    s.MayPostDone t (s.byteComplete t) ∧ (s.byteComplete t).main = s.main := by
  rcases State.byteComplete_cases t hi hie with ⟨a, hx⟩ | ⟨u, s', -, hx, rfl | ⟨a, v, rfl⟩, hk⟩ <;> rw [hx]
  · exact ⟨.inl (State.enterInterrupt_events ..), State.enterInterrupt_main ..⟩
  · exact ⟨hk.events, hk.main⟩
  · exact ⟨hk.events, hk.main⟩

/-- What a move writes to `E`: nothing, the mask of a `POST` that it issues, or the completion of a transport whose
byte-complete ISR or `ENQ` it is (41_dispatcher R178). -/
def State.EventsWrittenBy (s : State) (m : Move) (s' : State) : Prop :=
  s'.events = s.events
    ∨ (∃ mask, s.issues m = some (.post mask) ∧ s'.events = s.events ||| mask)
    ∨ ∃ t, (m = .interrupt (.bc t) ∨ ∃ p d, s.issues m = some (.enq t p d)) ∧ s.MayPostDone t s'

/-- An operation that software issues, from the state itself or with the routine's position moved on. -/
theorem State.eventsWrittenBy_of_exec {s u s' : State} {m : Move} {i : Instr} (hissues : s.issues m = some i)
    (hcfg : u.cfg = s.cfg) (hevents : u.events = s.events) (hmain : u.main = s.main) (hx : exec i u = .next s') :
    s.EventsWrittenBy m s' ∧ s.MainKeptOrReturned s' := by
  have hexec := exec_events_and_main hx
  simp only [State.MayPostDone, State.MainKeptOrReturned, hcfg, hevents, hmain] at hexec
  obtain ⟨he | ⟨mask, rfl, he⟩ | ⟨t, p, d, rfl, he⟩, hm⟩ := hexec
  · exact ⟨.inl he, hm⟩
  · exact ⟨.inr (.inl ⟨mask, hissues, he⟩), hm⟩
  · exact ⟨.inr (.inr ⟨t, .inr ⟨p, d, hissues⟩, he⟩), hm⟩

/-- Any move but `DISP`'s and the reset: only a `POST` and a completion write `E`, and `main` changes only where a
routine returns. -/
theorem State.Took.events_and_main {s s' : State} {m : Move} (h : s.Took m s') (hr : m.isReset = false)
    (hdisp : m ≠ .dispatcher) : s.EventsWrittenBy m s' ∧ s.MainKeptOrReturned s' := by
  cases h with
  | operation s hp hr hd hx => exact State.eventsWrittenBy_of_exec (State.issues_software hd) rfl rfl rfl hx
  | routine s hr hn hd hx =>
    exact State.eventsWrittenBy_of_exec (State.issues_routine hn hd) s.advance_cfg s.advance_events s.advance_main hx
  | illegal s hp hr hd => exact ⟨.inl rfl, .inl rfl⟩
  | routineIllegal s hr hn hd => exact ⟨.inl s.advance_events, .inl s.advance_main⟩
  | scan s b hi hm => exact absurd rfl hdisp
  | tickEntry s hi hie hp => exact ⟨.inl rfl, .inl rfl⟩
  | byteComplete s t hi hie hp =>
    obtain ⟨he, hm⟩ := State.byteComplete_events_and_main (t := t) hi hie
    exact ⟨.inr (.inr ⟨t, .inl rfl, he⟩), .inl hm⟩
  | tickScan s i hi => exact ⟨.inl (s.tickScan_events_and_main i).1, .inl (s.tickScan_events_and_main i).2⟩
  | tick s hd => exact ⟨.inl rfl, .inl rfl⟩
  | bytedone s t v hd hi => exact ⟨.inl (State.modXport_events ..), .inl (State.modXport_main ..)⟩
  | externalWrite s a v => exact ⟨.inl rfl, .inl rfl⟩
  | externalReset s launch => cases hr

/-! ## A bit of `E` -/

theorem getLsbD_or_left {e mask : Word} {b : Nat} (h : e.getLsbD b = true) : (e ||| mask).getLsbD b = true := by
  rw [BitVec.getLsbD_or, h, Bool.true_or]

theorem getLsbD_of_or {e mask : Word} {b : Nat} (he : e.getLsbD b = false) (h : (e ||| mask).getLsbD b = true) :
    mask.getLsbD b = true := by
  rwa [BitVec.getLsbD_or, he, Bool.false_or] at h

/-- The scan step clears the bit it dispatches and no other (41_dispatcher R173). -/
theorem State.scanBit_event_of_ready {s : State} {b : Fin 32} (h : s.eventReady b = true) (c : Fin 32) :
    (s.scanBit b).events.getLsbD c.val = (s.events.getLsbD c.val && decide (c ≠ b)) := by
  rw [State.scanBit_of_ready h, BitVec.getLsbD_and, BitVec.getLsbD_not, eventBit_getLsbD]
  simp

theorem State.scanBit_event_other (s : State) {b c : Fin 32} (h : c ≠ b) :
    (s.scanBit b).events.getLsbD c.val = s.events.getLsbD c.val := by
  cases hb : s.eventReady b
  · rw [State.scanBit_of_not_ready hb]
  · rw [State.scanBit_event_of_ready hb, decide_eq_true h, Bool.and_true]

theorem State.scanBit_clears_event {s : State} {b c : Fin 32} (hc : s.events.getLsbD c.val = true)
    (hc' : (s.scanBit b).events.getLsbD c.val = false) : c = b ∧ s.eventReady b = true := by
  cases hb : s.eventReady b
  · rw [State.scanBit_of_not_ready hb, hc] at hc'
    cases hc'
  · rw [State.scanBit_event_of_ready hb, hc, Bool.true_and] at hc'
    exact ⟨not_not.mp (of_decide_eq_false hc'), rfl⟩

theorem State.scanBit_sets_no_event {s : State} (b : Fin 32) {c : Fin 32} (hc : s.events.getLsbD c.val = false) :
    (s.scanBit b).events.getLsbD c.val = false := by
  cases hb : s.eventReady b
  · rw [State.scanBit_of_not_ready hb, hc]
  · rw [State.scanBit_event_of_ready hb, hc, Bool.false_and]

/-- `DISP` moves at `Scan(b)` with no ISR (10_state R52, 41_dispatcher R173). -/
theorem State.Took.of_dispatcher {s s' : State} (h : s.Took .dispatcher s') :
    ∃ b, s.isr = .none ∧ s.main = .scan b ∧ s' = s.scanBit b := by
  cases h with
  | scan s b hi hm => exact ⟨b, hi, hm, rfl⟩

/-- No move but `DISP`'s and the reset clears a bit (41_dispatcher R178). -/
theorem State.Took.keeps_event {s s' : State} {m : Move} (h : s.Took m s') (hr : m.isReset = false)
    (hdisp : m ≠ .dispatcher) {b : Nat} (hb : s.events.getLsbD b = true) : s'.events.getLsbD b = true := by
  obtain ⟨he | ⟨mask, -, he⟩ | ⟨t, -, he | he⟩, -⟩ := h.events_and_main hr hdisp <;> rw [he]
  · exact hb
  · exact getLsbD_or_left hb
  · exact hb
  · exact getLsbD_or_left hb

/-- A bit is cleared by the scan step that dispatches it (41_dispatcher R178). -/
theorem State.Took.clears_event {s s' : State} {m : Move} (h : s.Took m s') (hr : m.isReset = false) {b : Fin 32}
    (hb : s.events.getLsbD b.val = true) (hb' : s'.events.getLsbD b.val = false) :
    m = .dispatcher ∧ s.isr = .none ∧ s.main = .scan b ∧ s.eventReady b = true ∧ s' = s.scanBit b := by
  by_cases hdisp : m = .dispatcher
  · subst hdisp
    obtain ⟨c, hi, hm, rfl⟩ := h.of_dispatcher
    obtain ⟨rfl, hready⟩ := State.scanBit_clears_event hb hb'
    exact ⟨rfl, hi, hm, hready, rfl⟩
  · rw [h.keeps_event hr hdisp hb] at hb'
    cases hb'

/-- A bit is set by its `POST` or by a completion (41_dispatcher R171, R172). -/
theorem State.Took.sets_event {s s' : State} {m : Move} (h : s.Took m s') (hr : m.isReset = false) {b : Fin 32}
    (hb : s.events.getLsbD b.val = false) (hb' : s'.events.getLsbD b.val = true) :
    (∃ mask, s.issues m = some (.post mask) ∧ mask.getLsbD b.val = true)
      ∨ ∃ t, b = (s.cfg.bus t).evDone ∧ (m = .interrupt (.bc t) ∨ ∃ p d, s.issues m = some (.enq t p d)) := by
  have hne : s'.events ≠ s.events := fun he => by rw [he, hb] at hb'; cases hb'
  by_cases hdisp : m = .dispatcher
  · subst hdisp
    obtain ⟨c, -, -, rfl⟩ := h.of_dispatcher
    rw [State.scanBit_sets_no_event c hb] at hb'
    cases hb'
  · obtain ⟨he | ⟨mask, hi, he⟩ | ⟨t, ht, he | he⟩, -⟩ := h.events_and_main hr hdisp
    · exact absurd he hne
    · exact .inl ⟨mask, hi, getLsbD_of_or hb (he ▸ hb')⟩
    · exact absurd he hne
    · have hbit := getLsbD_of_or hb (he ▸ hb')
      rw [eventBit_getLsbD] at hbit
      exact .inr ⟨t, of_decide_eq_true hbit, ht⟩

/-- Settles O31, from what a move that is taken clears and sets. -/
theorem eventBitsChangeOnlyByTheirRules : Obligations.EventBitsChangeOnlyByTheirRules := by
  intro s s' m rest b hmoves hr hs
  obtain ⟨hc, -⟩ := step_inv hs
  rw [step_eq hc hmoves] at hs
  have took := (State.took_of_take hs).2
  have hissues : ({ s with moves := rest } : State).issues m = s.issues m := by cases m <;> rfl
  refine ⟨fun hb hb' => ?_, fun hb hb' => ?_⟩
  · obtain ⟨hm, hisr, hmain, hready, rfl⟩ := took.clears_event hr hb hb'
    have hother := fun c (hne : c ≠ b) => (s.withMoves rest).scanBit_event_other hne
    rw [State.scanBit_of_ready hready] at hother ⊢
    exact ⟨hm, hisr, hmain, rfl, rfl, hother⟩
  · have hset := took.sets_event hr hb hb'
    rwa [hissues] at hset

end Sys2Proof.Machine
end

section
/-! A drain pass along every schedule (41_dispatcher R175-R180): the n-th `DISP` step tests bit n - 1, and no other move
dispatches a bit, clears one or moves the scan on. -/

namespace Sys2Proof.Machine

/-! ## The bits dispatched from one state to a later one -/

/-- The bit that the entry reports as dispatched (10_state R58). -/
def TraceEntry.dispatched : TraceEntry → Option (Fin 32)
  | .dispatch b _ => some b
  | _ => none

/-- From s to u the bits of l are dispatched, in this order. -/
def State.Dispatches (s : State) (l : List (Fin 32)) (u : State) : Prop :=
  ∃ added, u.trace = s.trace ++ added ∧ added.filterMap TraceEntry.dispatched = l

theorem State.Dispatches.of_trace_eq {s u : State} (h : u.trace = s.trace) : s.Dispatches [] u :=
  ⟨[], by rw [h, List.append_nil], rfl⟩

theorem State.Dispatches.of_entry {s u : State} {e : TraceEntry} (h : u.trace = s.trace ++ [e])
    (he : e.dispatched = none) : s.Dispatches [] u :=
  ⟨[e], h, List.filterMap_eq_nil_iff.mpr fun _ hd => by rw [List.mem_singleton.mp hd, he]⟩

theorem State.Dispatches.trans {s u s' : State} {l l' : List (Fin 32)} (h : s.Dispatches l u)
    (h' : u.Dispatches l' s') : s.Dispatches (l ++ l') s' := by
  obtain ⟨added, hu, rfl⟩ := h
  obtain ⟨added', hs', rfl⟩ := h'
  exact ⟨added ++ added', by rw [hs', hu, List.append_assoc], List.filterMap_append⟩

theorem State.Dispatches.of_left_trace_eq {s s₁ u : State} {l : List (Fin 32)} (h : s₁.trace = s.trace)
    (hu : s₁.Dispatches l u) : s.Dispatches l u := by
  unfold State.Dispatches at hu ⊢
  rwa [← h]

theorem State.Dispatches.finish {s u : State} {l : List (Fin 32)} (h : s.Dispatches l u) (op : OpName) (st : Status)
    (v : Half) : s.Dispatches l (u.finish op st v) :=
  List.append_nil l ▸ h.trans (.of_entry (u.finish_trace op st v) rfl)

theorem State.OnlyWires.dispatches {s u : State} (h : s.OnlyWires u) : s.Dispatches [] u := by
  obtain ⟨added, htrace, hwire⟩ := h
  refine ⟨added, htrace, List.filterMap_eq_nil_iff.mpr fun e he => ?_⟩
  obtain ⟨t, x, rfl⟩ := hwire e he
  rfl

theorem State.Reports.dispatches {s s' : State} {x : Answer} {op : OpName} {st : Status} {v : Half}
    (h : s.Reports x op st v) (hx : x = .next s') : s.Dispatches [] s' := by
  obtain ⟨u, hu, hwires⟩ := h
  cases hx.symm.trans hu
  exact hwires.dispatches.finish op st v

/-- No instruction dispatches a bit. -/
theorem exec_dispatches {i : Instr} {s s' : State} (h : exec i s = .next s') : s.Dispatches [] s' := by
  cases i with
  | register id cb => obtain ⟨st, -, hr⟩ := execRegister_reports id cb s; exact hr.dispatches h
  | start id dur => obtain ⟨st, -, hr⟩ := execStart_reports id dur s; exact hr.dispatches h
  | stop id => obtain ⟨st, -, hr⟩ := execStop_reports id s; exact hr.dispatches h
  | elapsed id => obtain ⟨st, -, v, -, hr⟩ := execElapsed_reports id s; exact hr.dispatches h
  | post mask =>
    simp only [exec, execPost] at h
    split at h <;> cases h
    · exact .of_entry (s.raiseFault_trace _) rfl
    · exact .of_entry rfl rfl
  | enq t payload dests => obtain ⟨st, -, hr⟩ := execEnq_reports t payload dests s; exact hr.dispatches h
  | ret =>
    rcases execRet_trace h with ht | ⟨f, ht⟩
    · exact .of_trace_eq ht
    · exact .of_entry ht rfl
  | csenter => cases h; exact .of_entry rfl rfl
  | csexit v => obtain ⟨st, -, hr⟩ := execCsexit_reports v s; exact hr.dispatches h
  | rdmetric sel => cases h; exact .of_entry rfl rfl
  | tick => cases h; exact .of_trace_eq rfl
  | bytedone t v =>
    simp only [exec, execBytedone] at h
    split at h <;> cases h
    exact .of_left_trace_eq (s.modXport_trace t _) (.of_entry (State.emit_trace ..) rfl)

/-! ## The other moves -/

theorem State.nextRow_onlyWires (t : Bus) (s : State) : s.OnlyWires (s.nextRow t) :=
  .of_left_trace_eq (s.completeRow_trace t) (State.startRow_onlyWires t _)

/-- In phase Sending the ISR reports nothing but the bytes it puts on the wire (42_transport R200). -/
theorem State.bcSending_onlyWires (t : Bus) (s : State) : s.OnlyWires (s.bcSending t) := by
  unfold State.bcSending
  simp only
  split
  · exact ⟨[.wire t _], by rw [State.modXport_trace, State.load_trace], by simp⟩
  · split
    · exact .load (s.modXport_trace t _) t _
    · exact s.nextRow_onlyWires t

/-- In phase Receiving it reports the byte it stores, then bytes on the wire; or the fault alone (42_transport R201). -/
theorem State.bcReceiving_dispatches (t : Bus) (s : State) :
    ∃ u : State, (s.bcReceiving t = .ok u ∨ s.bcReceiving t = .error u) ∧ s.Dispatches [] u := by
  unfold State.bcReceiving
  simp only
  rcases s.memWrite_cases (s.destination t) (s.xport t).rxData with ⟨-, hm⟩ | ⟨-, hm⟩ <;> rw [hm]
  · have hstored : s.Dispatches [] (s.stored (s.destination t) (s.xport t).rxData) := .of_entry rfl rfl
    simp only
    split
    · exact ⟨_, .inl rfl, hstored.trans (State.OnlyWires.load (State.modXport_trace ..) t _).dispatches⟩
    · refine ⟨_, .inl rfl, hstored.trans ?_⟩
      exact .of_left_trace_eq (State.modXport_trace ..) (State.nextRow_onlyWires t _).dispatches
  · exact ⟨_, .inr rfl, .of_entry (s.raiseFault_trace _) rfl⟩

/-- The ISR body dispatches no bit, whether it ends at the raise or not (42_transport R199-R202). -/
theorem State.bcBody_dispatches (t : Bus) (s : State) :
    ∃ u : State, (s.bcBody t = .ok u ∨ s.bcBody t = .error u) ∧ s.Dispatches [] u := by
  unfold State.bcBody
  split
  · exact ⟨_, .inl rfl, (s.bcSending_onlyWires t).dispatches⟩
  · exact s.bcReceiving_dispatches t
  · exact ⟨s, .inl rfl, .of_trace_eq rfl⟩

theorem State.byteComplete_dispatches (t : Bus) (s : State) : s.Dispatches [] (s.byteComplete t) := by
  have henter := s.enterInterrupt_trace (.bc t)
  unfold State.byteComplete
  obtain ⟨u, hb | hb, hu⟩ := (s.enterInterrupt (.bc t)).bcBody_dispatches t <;> rw [hb]
  · exact .of_left_trace_eq henter hu
  · exact .of_left_trace_eq henter hu

/-- A slot step reports at most a callback (40_timer R147). -/
theorem State.tickScan_dispatches (s : State) (i : Nat) : s.Dispatches [] (s.tickScan i) := by
  unfold State.tickScan State.tickSlot
  simp only
  split
  · split
    · split
      · exact .of_entry rfl rfl
      · exact .of_trace_eq rfl
    · exact .of_trace_eq rfl
  · exact .of_trace_eq rfl

/-- No move but `DISP`'s and the reset dispatches a bit. -/
theorem State.Took.dispatches {s s' : State} {m : Move} (h : s.Took m s') (hr : m.isReset = false)
    (hdisp : m ≠ .dispatcher) : s.Dispatches [] s' := by
  cases h with
  | operation s hp hr hd hx => exact exec_dispatches hx
  | illegal s hp hr hd => exact .of_entry rfl rfl
  | routine s hr hn hd hx => exact .of_left_trace_eq s.advance_trace (exec_dispatches hx)
  | routineIllegal s hr hn hd => exact .of_left_trace_eq s.advance_trace (.of_entry rfl rfl)
  | scan s b hi hm => exact absurd rfl hdisp
  | tickEntry s hi hie hp => exact .of_trace_eq rfl
  | byteComplete s t hi hie hp => exact s.byteComplete_dispatches t
  | tickScan s i hi => exact s.tickScan_dispatches i
  | tick s hd => exact .of_trace_eq rfl
  | bytedone s t v hd hi => exact .of_left_trace_eq (s.modXport_trace t _) (.of_entry (State.emit_trace ..) rfl)
  | externalWrite s a v => exact .of_trace_eq rfl
  | externalReset s launch => cases hr

/-! ## The pass -/

/-- Where the main context stands after n `DISP` steps of a pass: at `Scan(n mod 32)`, or in the handler of the bit that
the n-th step tested. -/
def MainCtx.AfterScans (n : Nat) : MainCtx → Prop
  | .init => False
  | .scan b => b.val = n % 32
  | .handler b => b.val + 1 = n

/-- From s at `Scan(0)`, n `DISP` steps of a pass have led to u and dispatched the bits of l: they ascend, they are
defined bits that have been tested, and a defined bit that was set at s is among them or still waits for its test. -/
structure State.Pass (s : State) (n : Nat) (l : List (Fin 32)) (u : State) : Prop where
  cfg : u.cfg = s.cfg
  main : u.main.AfterScans n
  dispatches : s.Dispatches l u
  ascending : l.Pairwise (· < ·)
  tested : ∀ b ∈ l, b.val < n ∧ s.cfg.definedMask.getLsbD b.val = true
  complete : ∀ b : Fin 32, b.val < n → s.cfg.definedMask.getLsbD b.val = true → s.events.getLsbD b.val = true →
    b ∈ l
  waiting : ∀ b : Fin 32, n ≤ b.val → s.events.getLsbD b.val = true → u.events.getLsbD b.val = true

theorem State.Pass.start {s : State} (h : s.main = .scan 0) : s.Pass 0 [] s where
  cfg := rfl
  main := by rw [h]; rfl
  dispatches := .of_trace_eq rfl
  ascending := .nil
  tested b hb := by cases hb
  complete b hb := absurd hb (Nat.not_lt_zero _)
  waiting b _ hb := hb

/-- A routine that returns from the handler of bit n - 1 goes to `Scan(n mod 32)`, so no move but `DISP`'s and the reset
changes the position. -/
theorem State.MainKeptOrReturned.afterScans {s s' : State} {n : Nat} (h : s.MainKeptOrReturned s')
    (hn : s.main.AfterScans n) : s'.main.AfterScans n := by
  rcases h with hm | ⟨hm, -⟩ | ⟨b, hm, hm'⟩
  · rwa [hm]
  · rw [hm] at hn
    exact hn.elim
  · rw [hm] at hn
    rw [hm']
    exact (Fin.val_add b 1).trans (congrArg (· % 32) hn)

theorem State.Pass.other {s u u' : State} {n : Nat} {l : List (Fin 32)} {m : Move} (h : s.Pass n l u)
    (took : u.Took m u') (hr : m.isReset = false) (hdisp : m ≠ .dispatcher) : s.Pass n l u' where
  cfg := took.cfg.trans h.cfg
  main := (took.events_and_main hr hdisp).2.afterScans h.main
  dispatches := List.append_nil l ▸ h.dispatches.trans (took.dispatches hr hdisp)
  ascending := h.ascending
  tested := h.tested
  complete := h.complete
  waiting b hb he := took.keeps_event hr hdisp (h.waiting b hb he)

/-- The test of bit b leaves the bits after it waiting. -/
theorem State.Pass.waiting_scanBit {s u : State} {b : Fin 32} {l : List (Fin 32)} (h : s.Pass b.val l u) (c : Fin 32)
    (hc : b.val + 1 ≤ c.val) (he : s.events.getLsbD c.val = true) : (u.scanBit b).events.getLsbD c.val = true := by
  rw [u.scanBit_event_other (by omega)]
  exact h.waiting c (by omega) he

/-- The `DISP` step at a ready bit dispatches it after the lower ones (41_dispatcher R176, R180). -/
theorem State.Pass.dispatch {s u : State} {b : Fin 32} {l : List (Fin 32)} (h : s.Pass b.val l u)
    (hready : u.eventReady b = true) : s.Pass (b.val + 1) (l ++ [b]) (u.scanBit b) where
  cfg := (u.scanBit_cfg b).trans h.cfg
  main := by rw [State.scanBit_of_ready hready]; rfl
  dispatches := h.dispatches.trans (by rw [State.scanBit_of_ready hready]; exact ⟨[.dispatch b _], rfl, rfl⟩)
  ascending := by
    refine List.pairwise_append.mpr ⟨h.ascending, List.pairwise_singleton .., fun c hc d hd => ?_⟩
    rw [List.mem_singleton.mp hd]
    exact (h.tested c hc).1
  tested c hc := by
    rcases List.mem_append.mp hc with hc | hc
    · exact ⟨Nat.lt_succ_of_lt (h.tested c hc).1, (h.tested c hc).2⟩
    · rw [List.mem_singleton.mp hc]
      exact ⟨Nat.lt_succ_self _, h.cfg ▸ ((u.eventReady_iff b).mp hready).1⟩
  complete c hc hdef he := by
    by_cases hcb : c = b
    · exact List.mem_append_right _ (List.mem_singleton.mpr hcb)
    · exact List.mem_append_left _ (h.complete c (by omega) hdef he)
  waiting := h.waiting_scanBit

/-- The `DISP` step at a bit that is not ready goes on to the next; a defined bit that was set at s would be ready. -/
theorem State.Pass.skip {s u : State} {b : Fin 32} {l : List (Fin 32)} (h : s.Pass b.val l u)
    (hready : u.eventReady b = false) : s.Pass (b.val + 1) l (u.scanBit b) where
  cfg := (u.scanBit_cfg b).trans h.cfg
  main := by rw [State.scanBit_of_not_ready hready]; exact Fin.val_add b 1
  dispatches := List.append_nil l ▸ h.dispatches.trans (.of_trace_eq (by rw [State.scanBit_of_not_ready hready]))
  ascending := h.ascending
  tested c hc := ⟨Nat.lt_succ_of_lt (h.tested c hc).1, (h.tested c hc).2⟩
  complete c hc hdef he := by
    have hne : c ≠ b := by
      rintro rfl
      have hset := (u.eventReady_iff c).mpr ⟨h.cfg ▸ hdef, h.waiting c le_rfl he⟩
      exact absurd (hset.symm.trans hready) (by decide)
    exact h.complete c (by omega) hdef he
  waiting := h.waiting_scanBit

/-- The `DISP` step after n of them tests bit n. -/
theorem State.Pass.scan {s u u' : State} {n : Nat} {l : List (Fin 32)} (h : s.Pass n l u) (hn : n < 32)
    (took : u.Took .dispatcher u') : ∃ l', s.Pass (n + 1) l' u' := by
  obtain ⟨b, -, hm, rfl⟩ := took.of_dispatcher
  have hmain := h.main
  rw [hm] at hmain
  obtain rfl : b.val = n := hmain.trans (Nat.mod_eq_of_lt hn)
  cases hready : u.eventReady b with
  | true => exact ⟨_, h.dispatch hready⟩
  | false => exact ⟨_, h.skip hready⟩

/-- Along a schedule the pass goes on by one bit for each `DISP` step. -/
theorem State.Pass.follow {s u s' : State} {n : Nat} {l : List (Fin 32)} {ms : List Move} (hc : s.cfg.wf = true)
    (h : s.Pass n l u) (hn : n + ms.countP (· = .dispatcher) ≤ 32) (hreset : ∀ m ∈ ms, m.isReset = false)
    (hfollow : u.follow ms = .next s') : ∃ l', s.Pass (n + ms.countP (· = .dispatcher)) l' s' := by
  induction ms generalizing u n l with
  | nil => cases hfollow; exact ⟨l, { h with }⟩
  | cons m ms ih =>
    obtain ⟨v, ht, hrest⟩ := State.exists_take_of_follow (h.cfg ▸ hc) hfollow
    obtain ⟨-, took⟩ := State.took_of_take ht
    have hreset' : ∀ m ∈ ms, m.isReset = false := fun m hm => hreset m (List.mem_cons_of_mem _ hm)
    by_cases hdisp : m = .dispatcher
    · subst hdisp
      rw [List.countP_cons_of_pos (by simp), ← Nat.add_assoc, Nat.add_right_comm] at hn ⊢
      obtain ⟨l', hv⟩ := h.scan (by omega) took
      exact ih hv hn hreset' hrest
    · rw [List.countP_cons_of_neg (by simpa using hdisp)] at hn ⊢
      exact ih (h.other took (hreset m List.mem_cons_self) hdisp) hn hreset' hrest

/-- Settles O32: the pass after its 32 `DISP` steps. -/
theorem drainPassDispatchesInOrder : Obligations.DrainPassDispatchesInOrder := by
  intro s s' ms hc hm hreset hcount hfollow dispatched
  rw [← List.countP_eq_length_filter] at hcount
  obtain ⟨l, hpass⟩ := (State.Pass.start hm).follow hc (by omega) hreset hfollow
  rw [Nat.zero_add, hcount] at hpass
  obtain ⟨-, hmain, ⟨added, htrace, hl⟩, hasc, htested, hcomplete, -⟩ := hpass
  have hd : dispatched = l := by
    have hdrop : s'.trace.drop s.trace.length = added := by rw [htrace, List.drop_left]
    exact (congrArg (List.filterMap TraceEntry.dispatched) hdrop).trans hl
  rw [hd]
  refine ⟨hasc, fun b hb => (htested b hb).2, fun b => hcomplete b b.isLt, ?_⟩
  cases hs' : s'.main with
  | init => rw [hs'] at hmain; exact hmain.elim
  | scan b => rw [hs'] at hmain; exact .inl (congrArg _ (Fin.ext hmain))
  | handler b => rw [hs'] at hmain; exact .inr (congrArg _ (Fin.ext (Nat.succ.inj hmain)))

end Sys2Proof.Machine
end

section
/-! The Transport's shared actions as equations on the state (42_transport R191-R202): `CompleteRow`, `StartRow`, `ENQ`,
`BYTEDONE` and the byte-complete ISR in each phase. -/

namespace Sys2Proof.Machine

/-! ## The ring (42_transport R191) -/

/-- The ring is full exactly when every row is occupied. -/
theorem Transport.RingShape.full_iff {c : BusConfig} {x : Transport} (h : x.RingShape c) :
    x.full = true ↔ x.count = c.rows := by
  constructor
  · intro hfull
    by_contra hne
    have hlt : x.count < c.rows := lt_of_le_of_ne h.count_le_rows hne
    rw [Transport.full, h.wr_eq, h.occupied _ hlt] at hfull
    exact absurd (of_decide_eq_true hfull) (Nat.lt_irrefl _)
  · intro hc
    by_contra hfull
    exact absurd (h.count_lt_of_not_full (Bool.eq_false_iff.mpr hfull)) (by omega)

/-- Settles O33. -/
theorem ringCapacityIsItsRows : Obligations.RingCapacityIsItsRows := by
  intro s t h
  have hshape := (h.ring t).shape
  refine ⟨fun r => Row.occupied_iff _, hshape.full_iff, ?_⟩
  rw [hshape.occupied_rd, decide_eq_false_iff_not]
  omega

/-! ## `CompleteRow` and `StartRow` (42_transport R196, R197) -/

theorem State.completeRow_eq (t : Bus) (s : State) :
    s.completeRow t = { s.setXport t ((s.xport t).retire (s.cfg.bus t)) with
      events := s.events ||| eventBit (s.cfg.bus t).evDone } := by
  cases t <;> rfl

/-- Settles O36. -/
theorem completeRowRetiresTheRow : Obligations.CompleteRowRetiresTheRow := fun t s => s.completeRow_eq t

/-- On an empty row the transport goes Idle. -/
theorem State.startRow_of_empty {t : Bus} {s : State} (h : ((s.xport t).row (s.xport t).rd).txLen = emptyLen) :
    s.startRow t = s.setPhase t .idle 0 0 := by
  rw [State.startRow_eq, if_pos h]

/-- A payload's first byte goes out. -/
theorem State.startRow_of_payload {t : Bus} {s : State} (hne : ((s.xport t).row (s.xport t).rd).txLen ≠ emptyLen)
    (h : 0 < ((s.xport t).row (s.xport t).rd).txLen.toNat) :
    s.startRow t = (s.setPhase t .sending 1 0).load t (((s.xport t).row (s.xport t).rd).dataAt 0) := by
  rw [State.startRow_eq, if_neg hne, if_pos h]

/-- A row with a reply only starts with the fill byte. -/
theorem State.startRow_of_reply {t : Bus} {s : State} (htx : ((s.xport t).row (s.xport t).rd).txLen = 0#8)
    (h : 0 < ((s.xport t).row (s.xport t).rd).rxLen.toNat) :
    s.startRow t = (s.setPhase t .receiving 0 0).load t (s.cfg.bus t).fill := by
  rw [State.startRow_eq, htx, if_neg (by decide), if_neg (by decide), if_pos h]

/-- A zero-length row is retired at once. -/
theorem State.startRow_of_zero {t : Bus} {s : State} (htx : ((s.xport t).row (s.xport t).rd).txLen = 0#8)
    (hrx : ((s.xport t).row (s.xport t).rd).rxLen = 0#8) : s.startRow t = (s.completeRow t).startRow t := by
  rw [State.startRow_eq, htx, hrx, if_neg (by decide), if_neg (by decide), if_neg (by decide)]

theorem Transport.occupied_of_txLen_zero {x : Transport} {r : Nat} (h : (x.row r).txLen = 0#8) :
    x.occupied r = true := by
  rw [Transport.occupied, Row.occupied_iff, h]
  decide

/-- Settles O37. -/
theorem startRowFindsTheNextExchange : Obligations.StartRowFindsTheNextExchange := by
  intro t s
  refine ⟨fun h => ?_, fun hne h => ?_, fun htx h => ?_, fun htx hrx => ⟨State.startRow_of_zero htx hrx, ?_⟩⟩
  · rw [State.startRow_of_empty h]; rfl
  · rw [State.startRow_of_payload hne h]; cases t <;> rfl
  · rw [State.startRow_of_reply htx h]; cases t <;> rfl
  · exact State.completeRow_count (Transport.occupied_of_txLen_zero htx)

/-! ## `ENQ` (42_transport R192-R195) -/

/-- An `ENQ` whose command fits and whose ring is not full. -/
theorem execEnq_of_room {t : Bus} {payload : List Byte} {dests : List Addr} {s : State}
    (hl : payload.length + dests.length ≤ (s.cfg.bus t).rowCap) (hf : (s.xport t).full = false) :
    execEnq t payload dests s = .next ((if (s.xport t).phase = .idle then (s.appendRow t payload dests).startRow t
      else s.appendRow t payload dests).finish .enq .ok 0#16) := by
  simp only [execEnq, if_neg (Nat.not_lt_of_le hl), hf, Bool.false_eq_true, if_false]

theorem Transport.full_eq_false_iff (x : Transport) : x.full = false ↔ (x.row x.wr).txLen = emptyLen := by
  simp [Transport.full, Transport.occupied, Row.occupied]

/-- Settles O34, in the order of the checks. -/
theorem enqAppendsARow : Obligations.EnqAppendsARow := by
  intro t payload dests s
  refine ⟨fun hlong => ?_, fun hl hfull => ?_, fun hl hfree hp => ?_, fun hl hfree hp => ?_⟩
  · simp only [exec, execEnq, if_pos hlong]; rfl
  · have hf : (s.xport t).full = true := (Row.occupied_iff _).mpr hfull
    simp only [exec, execEnq, if_neg (Nat.not_lt_of_le hl), hf, if_true]
    cases t <;> rfl
  · rw [exec, execEnq_of_room hl ((Transport.full_eq_false_iff _).mpr hfree), if_neg hp]
    rfl
  · rw [exec, execEnq_of_room hl ((Transport.full_eq_false_iff _).mpr hfree), if_pos hp]
    rfl

/-- An Idle transport's ring is empty: its two cursors meet, and it is not full. -/
theorem Transport.inv.idle_ring {c : BusConfig} {x : Transport} (h : x.inv c) (hp : x.phase = .idle) :
    x.count = 0 ∧ x.wr = x.rd ∧ x.full = false := by
  obtain ⟨hring, -⟩ := h
  obtain ⟨hshape, hidle, -⟩ := (Transport.ringInv_iff c x).mp hring
  have hc : x.count = 0 := hidle.mp hp
  have hrd := hshape.rd_lt
  refine ⟨hc, ?_, ?_⟩
  · rw [hshape.wr_eq, hc, Nat.add_zero, Nat.mod_eq_of_lt hrd]
  · rw [← Bool.not_eq_true, hshape.full_iff]
    omega

theorem Transport.inv.idle_cursors {c : BusConfig} {x : Transport} (h : x.inv c) (hp : x.phase = .idle) :
    x.txIdx = 0 ∧ x.rxIdx = 0 := by
  obtain ⟨-, hidle, -⟩ := h
  exact hidle hp

/-- `ENQ` on an Idle transport writes the row that is started next. -/
theorem Transport.inv.append_row_rd {c : BusConfig} {x : Transport} (h : x.inv c) (hp : x.phase = .idle)
    (payload : List Byte) (dests : List Addr) :
    (x.append c payload dests).row x.rd = (x.row x.wr).fill payload dests := by
  rw [← (h.idle_ring hp).2.1]
  exact Transport.row_setRow_same _ (h.shape.length ▸ h.shape.wr_lt)

theorem State.Inv.rowCap_le {s : State} (h : s.Inv) (t : Bus) : (s.cfg.bus t).rowCap ≤ 254 := by
  obtain ⟨-, -, -, hk⟩ := (BusConfig.inRange_iff _).mp (Config.bus_inRange h.config t)
  exact hk

/-- The state after an `ENQ` on an Idle transport that puts the byte b on the wire: the transport x, and the two entries
of the trace (42_transport R192, R194). -/
abbrev State.enqStarted (t : Bus) (x : Transport) (b : Byte) (s : State) : State :=
  { s.setXport t x with trace := s.trace ++ [.wire t b, .result .enq .ok 0#16] }

/-- `ENQ`'s row write, the first byte of its row and its result as one change of the state. -/
theorem State.enqStarted_eq (s : State) (t : Bus) (payload : List Byte) (dests : List Addr) (p : Phase) (tx rx : Nat)
    (b : Byte) :
    (((s.appendRow t payload dests).setPhase t p tx rx).load t b).finish .enq .ok 0#16 =
      s.enqStarted t { (s.xport t).append (s.cfg.bus t) payload dests with
        phase := p, txIdx := tx, rxIdx := rx, infl := some b } b := by
  rw [State.enqStarted, List.append_cons]
  cases t <;> rfl

/-- A row that `ENQ` writes on an Idle transport and that is retired at once leaves its entries, both cursors moved. -/
theorem Transport.inv.retire_append {c : BusConfig} {x : Transport} (h : x.inv c) (hp : x.phase = .idle)
    (payload : List Byte) (dests : List Addr) :
    (x.append c payload dests).retire c =
      { x with
        rows := x.rows.set x.wr { (x.row x.wr).fill payload dests with txLen := emptyLen }
        wr := ringInc c.rows x.wr
        rd := ringInc c.rows x.wr } := by
  calc (x.append c payload dests).retire c
      = { x.append c payload dests with
          rows := (x.append c payload dests).rows.set x.rd
            { (x.append c payload dests).row x.rd with txLen := emptyLen }
          rd := ringInc c.rows x.rd } := rfl
    _ = _ := by
      rw [h.append_row_rd hp, ← (h.idle_ring hp).2.1]
      simp only [Transport.setRow_rows, List.set_set]
      rfl

/-- `ENQ`'s row write, the row's retirement and the result as one change of the state. -/
theorem State.enqRetired_eq (s : State) (t : Bus) (payload : List Byte) (dests : List Addr) :
    (((s.appendRow t payload dests).completeRow t).setPhase t .idle 0 0).finish .enq .ok 0#16 =
      { s.setXport t { ((s.xport t).append (s.cfg.bus t) payload dests).retire (s.cfg.bus t) with
          phase := .idle, txIdx := 0, rxIdx := 0 } with
        events := s.events ||| eventBit (s.cfg.bus t).evDone
        trace := s.trace ++ [.result .enq .ok 0#16] } := by
  cases t <;> rfl

/-- With no row occupied `StartRow` goes Idle. -/
theorem State.startRow_of_count_zero {t : Bus} {s : State} (h : (s.xport t).RingShape (s.cfg.bus t))
    (hc : (s.xport t).count = 0) : s.startRow t = s.setPhase t .idle 0 0 := by
  have hfree := h.occupied_rd
  rw [hc] at hfree
  exact State.startRow_of_empty (by simpa [Transport.occupied, Row.occupied] using hfree)

/-- When the only row is retired the transport goes Idle. -/
theorem State.nextRow_of_count_one {t : Bus} {s : State} (h : (s.xport t).RingShape (s.cfg.bus t))
    (hc : (s.xport t).count = 1) : s.nextRow t = (s.completeRow t).setPhase t .idle 0 0 := by
  have ho : (s.xport t).occupied (s.xport t).rd = true := by rw [h.occupied_rd, hc]; rfl
  have hleft := State.completeRow_count ho
  refine State.startRow_of_count_zero ?_ (by omega)
  rw [State.xport_completeRow_same, State.completeRow_cfg]
  exact h.retire ho

/-- Settles O35, by the first byte that the command puts on the wire. -/
theorem enqOnAnIdleInstanceStartsTheRow : Obligations.EnqOnAnIdleInstanceStartsTheRow := by
  intro t payload dests s h hp hl x w row next
  have hring : x.inv (s.cfg.bus t) := h.ring t
  obtain ⟨hcount, -, hfree⟩ := hring.idle_ring hp
  obtain ⟨htx0, hrx0⟩ := hring.idle_cursors hp
  obtain ⟨htx, hrx⟩ := w.fill_lengths (h.rowCap_le t) hl
  have hocc : (w.fill payload dests).txLen ≠ emptyLen := (Row.occupied_iff _).mp (w.fill_occupied (h.rowCap_le t) hl)
  have hrow : ((s.appendRow t payload dests).xport t).row ((s.appendRow t payload dests).xport t).rd
      = w.fill payload dests := by
    rw [State.xport_appendRow_same]
    exact hring.append_row_rd hp payload dests
  rw [exec, execEnq_of_room hl hfree, if_pos hp]
  refine ⟨fun b0 bs e => ?_, fun e hd => ?_, fun e hd => ?_⟩
  · have hstart : (s.appendRow t payload dests).startRow t
        = ((s.appendRow t payload dests).setPhase t .sending 1 0).load t b0 := by
      rw [State.startRow_of_payload (hrow ▸ hocc) (by rw [hrow, htx, e]; exact Nat.succ_pos _), hrow]
      subst e
      rfl
    rw [hstart, State.enqStarted_eq, hrx0]
    rfl
  · have hstart : (s.appendRow t payload dests).startRow t
        = ((s.appendRow t payload dests).setPhase t .receiving 0 0).load t (s.cfg.bus t).fill := by
      rw [State.startRow_of_reply (by rw [hrow, e]; rfl) (by rw [hrow, hrx]; exact List.length_pos_iff.mpr hd),
        State.appendRow_cfg]
    rw [hstart, State.enqStarted_eq, htx0, hrx0]
    rfl
  · obtain ⟨hshape, hone⟩ := hring.shape.append (h.rowCap_le t) hl hfree
    have hnext : (s.appendRow t payload dests).startRow t = (s.appendRow t payload dests).nextRow t :=
      State.startRow_of_zero (by rw [hrow, e]; rfl) (by rw [hrow, hd]; rfl)
    have happ : (s.appendRow t payload dests).xport t = x.append (s.cfg.bus t) payload dests :=
      State.xport_appendRow_same ..
    have hidle : x.phase = .idle := hp
    rw [hnext, State.nextRow_of_count_one (by rwa [happ, State.appendRow_cfg]) (by rw [happ, hone, hcount]),
      State.enqRetired_eq, hring.retire_append hp, htx0, hrx0, hidle]
    rfl

/-! ## A byte completes (42_transport R198-R202) -/

/-- Settles O38. -/
theorem byteDoneCompletesTheByteInFlight : Obligations.ByteDoneCompletesTheByteInFlight := by
  intro t v s h
  rw [exec, execBytedone, if_pos (Option.isSome_iff_ne_none.mpr h)]
  cases t <;> rfl

/-- The ISR body in phase Sending with a payload byte left. -/
theorem State.bcSending_of_payload {t : Bus} {s : State} (h : (s.xport t).txIdx < (s.currentRow t).txLen.toNat) :
    s.bcSending t = (s.load t ((s.currentRow t).dataAt (s.xport t).txIdx)).modXport t
      fun x => { x with txIdx := (s.xport t).txIdx + 1 } := by
  simp only [State.bcSending, if_pos h]

/-- The ISR body in phase Sending after the last payload byte, with a reply to come. -/
theorem State.bcSending_of_reply {t : Bus} {s : State} (h : (s.currentRow t).txLen.toNat ≤ (s.xport t).txIdx)
    (hr : 0 < (s.currentRow t).rxLen.toNat) :
    s.bcSending t = (s.modXport t fun x => { x with phase := .receiving, rxIdx := 0 }).load t (s.cfg.bus t).fill := by
  simp only [State.bcSending, if_neg (Nat.not_lt_of_le h), if_pos hr]

/-- The ISR body in phase Sending after the last byte of the row. -/
theorem State.bcSending_of_done {t : Bus} {s : State} (h : (s.currentRow t).txLen.toNat ≤ (s.xport t).txIdx)
    (hr : (s.currentRow t).rxLen = 0#8) : s.bcSending t = s.nextRow t := by
  simp only [State.bcSending, if_neg (Nat.not_lt_of_le h), hr]
  rfl

/-- The ISR body in phase Receiving stores the byte at a valid destination, then goes on or retires the row. -/
theorem State.bcReceiving_of_valid {t : Bus} {s : State} (h : s.cfg.destOk (s.destination t) = true) :
    s.bcReceiving t = .ok
      (if (s.xport t).rxIdx + 1 < (s.currentRow t).rxLen.toNat then
        ((s.stored (s.destination t) (s.xport t).rxData).modXport t
          fun x => { x with rxIdx := (s.xport t).rxIdx + 1 }).load t (s.cfg.bus t).fill
      else ((s.stored (s.destination t) (s.xport t).rxData).modXport t
        fun x => { x with rxIdx := (s.xport t).rxIdx + 1 }).nextRow t) := by
  simp only [State.bcReceiving, State.memWrite, h, if_true]
  exact (apply_ite Except.ok ..).symm

/-- The ISR body in phase Receiving faults on a destination that is not valid. -/
theorem State.bcReceiving_of_invalid {t : Bus} {s : State} (h : s.cfg.destOk (s.destination t) = false) :
    s.bcReceiving t = .error (s.raiseFault (.badDest (s.destination t))) := by
  simp only [State.bcReceiving, State.memWrite, h, Bool.false_eq_true, if_false]

theorem State.bcBody_of_sending {t : Bus} {s : State} (h : (s.xport t).phase = .sending) :
    s.bcBody t = .ok (s.bcSending t) := by
  rw [State.bcBody, h]

theorem State.bcBody_of_receiving {t : Bus} {s : State} (h : (s.xport t).phase = .receiving) :
    s.bcBody t = s.bcReceiving t := by
  rw [State.bcBody, h]

theorem State.bcBody_of_idle {t : Bus} {s : State} (h : (s.xport t).phase = .idle) : s.bcBody t = .ok s := by
  rw [State.bcBody, h]

theorem State.byteComplete_of_ok {t : Bus} {s u : State} (h : (s.enterInterrupt (.bc t)).bcBody t = .ok u) :
    s.byteComplete t = u.returnInterrupt := by
  rw [State.byteComplete, h]

theorem State.byteComplete_of_error {t : Bus} {s u : State} (h : (s.enterInterrupt (.bc t)).bcBody t = .error u) :
    s.byteComplete t = u := by
  rw [State.byteComplete, h]

theorem State.xport_enterBc (s : State) (t : Bus) :
    (s.enterInterrupt (.bc t)).xport t = { s.xport t with bcPend := false } := by
  cases t <;> rfl

/-- The `IRQ` step with the byte-complete source (42_transport R199). -/
theorem step_byteComplete {s : State} {rest : List Move} {t : Bus} (hw : s.willTake (.interrupt (.bc t)) rest)
    (hi : s.isr = .none) (hie : s.ie = true) (hb : (s.xport t).bcPend = true) :
    step s = .next ((s.withMoves rest).byteComplete t) :=
  step_of_took hw (.byteComplete (s.withMoves rest) t hi hie (by cases t <;> exact hb))

/-- Outside an ISR and unmasked, the interrupt return changes nothing (60_exceptions R263). -/
theorem State.returned_eq {s : State} (hi : s.isr = .none) (hie : s.ie = true) :
    { s with isr := .none, ie := true } = s := by
  rw [← hi, ← hie]

/-- Settles O41. -/
theorem byteCompleteWhileIdleHasNoEffect : Obligations.ByteCompleteWhileIdleHasNoEffect := by
  intro s rest t hw hi hie hb hp
  have hidle : (((s.withMoves rest).enterInterrupt (.bc t)).xport t).phase = .idle := by cases t <;> exact hp
  rw [step_byteComplete hw hi hie hb, State.byteComplete_of_ok (State.bcBody_of_idle hidle)]
  conv_rhs => rw [← State.returned_eq hi hie]
  cases t <;> rfl

/-- Settles O39, by what is left of the row. -/
theorem byteCompleteWhileSending : Obligations.ByteCompleteWhileSending := by
  intro s rest t htake hi hie hb hp x w s1
  have hs1 : (s.withMoves rest).enterInterrupt (.bc t) = s1 := by cases t <;> rfl
  have hphase : (s1.xport t).phase = .sending := by cases t <;> exact hp
  have htx : (s1.xport t).txIdx = x.txIdx := by cases t <;> rfl
  have hw : s1.currentRow t = w := by cases t <;> rfl
  have hbody : ((s.withMoves rest).enterInterrupt (.bc t)).bcBody t = .ok (s1.bcSending t) := by
    rw [hs1]
    exact State.bcBody_of_sending hphase
  rw [step_byteComplete htake hi hie hb, State.byteComplete_of_ok hbody]
  refine ⟨fun h => ?_, fun h hr => ?_, fun h hr => ?_⟩
  · rw [State.bcSending_of_payload (by rwa [hw, htx]), hw, htx]
    conv_rhs => rw [← State.returned_eq hi hie]
    cases t <;> rfl
  · rw [State.bcSending_of_reply (by rwa [hw, htx]) (by rwa [hw])]
    conv_rhs => rw [← State.returned_eq hi hie]
    cases t <;> rfl
  · rw [State.bcSending_of_done (by rwa [hw, htx]) (by rwa [hw])]
    rfl

/-- Settles O40, by the destination and by what is left of the row. -/
theorem byteCompleteWhileReceiving : Obligations.ByteCompleteWhileReceiving := by
  intro s rest t htake hi hie hb hp x w a s1
  let s0 := (s.withMoves rest).enterInterrupt (.bc t)
  have hphase : (s0.xport t).phase = .receiving := by cases t <;> exact hp
  have hcfg : s0.cfg = s.cfg := State.enterInterrupt_cfg ..
  have hrx : (s0.xport t).rxIdx = x.rxIdx := by cases t <;> rfl
  have hw : s0.currentRow t = w := by cases t <;> rfl
  have ha : s0.destination t = a := by cases t <;> rfl
  have hs1 : ((s0.stored a (s0.xport t).rxData).modXport t fun y => { y with rxIdx := x.rxIdx + 1 }) = s1 := by
    cases t <;> rfl
  have hbody := State.bcBody_of_receiving hphase
  rw [step_byteComplete htake hi hie hb]
  have hvalid (h : s.cfg.destOk a = true) := State.bcReceiving_of_valid (t := t) (s := s0) (by rwa [ha, hcfg])
  rw [ha, hrx, hw, hs1] at hvalid
  refine ⟨fun h => ?_, fun h hmore => ?_, fun h hlast => ?_⟩
  · rw [State.byteComplete_of_error (hbody.trans (State.bcReceiving_of_invalid (by rwa [ha, hcfg]))), ha]
    cases t <;> rfl
  · rw [State.byteComplete_of_ok (hbody.trans (hvalid h)), if_pos hmore]
    conv_rhs => rw [← State.returned_eq hi hie, List.append_cons]
    cases t <;> rfl
  · rw [State.byteComplete_of_ok (hbody.trans (hvalid h)), if_neg (Nat.not_lt_of_le hlast)]
    rfl

end Sys2Proof.Machine
end

section
/-! Who changes a transport (42_transport R206). -/

namespace Sys2Proof.Machine

/-- Of the operations only its own `ENQ` changes a transport. -/
theorem exec_xport {i : Instr} {s s' : State} (h : exec i s = .next s') (hop : i.isEvent = false) (t : Bus) :
    s'.xport t = s.xport t ∨ ∃ p d, i = .enq t p d := by
  obtain ⟨-, -, -, hframe⟩ := instructionsWriteOnlyWhatTheirRulesList i s s' h
  cases i with
  | register id cb => exact .inl (congrArg (State.xport · t) hframe.1 :)
  | start id dur => exact .inl (congrArg (State.xport · t) hframe.1 :)
  | stop id => exact .inl (congrArg (State.xport · t) hframe.1 :)
  | elapsed id => exact .inl (congrArg (State.xport · t) hframe :)
  | post mask => exact .inl (congrArg (State.xport · t) hframe.1 :)
  | enq u p d =>
    by_cases hu : t = u
    · exact .inr ⟨p, d, hu ▸ rfl⟩
    · exact .inl ((execEnq_kept h).other t hu)
  | ret =>
    simp only [exec, execRet] at h
    split at h
    · cases h; exact .inl rfl
    · cases h; exact .inl rfl
    · split at h <;> cases h <;> exact .inl rfl
    · cases h
    · cases h
  | csenter => exact .inl (congrArg (State.xport · t) hframe :)
  | csexit v => exact .inl (congrArg (State.xport · t) hframe :)
  | rdmetric sel => exact .inl (congrArg (State.xport · t) hframe :)
  | tick => cases hop
  | bytedone u v => cases hop

theorem State.xport_advance (s : State) (t : Bus) : s.advance.xport t = s.xport t :=
  State.xport_congr s.advance_busA s.advance_busB t

theorem State.scanBit_xport (s : State) (b : Fin 32) (t : Bus) : (s.scanBit b).xport t = s.xport t := by
  unfold State.scanBit
  split <;> rfl

theorem State.tickScan_xport (s : State) (i : Nat) (t : Bus) : (s.tickScan i).xport t = s.xport t := by
  unfold State.tickScan State.tickSlot
  simp only
  repeat' split
  all_goals rfl

/-- The byte-complete ISR of one transport leaves the other (42_transport R206). -/
theorem State.byteComplete_xport_other {s : State} {t u : Bus} (hi : s.isr = .none) (hie : s.ie = true) (hu : u ≠ t) :
    (s.byteComplete t).xport u = s.xport u := by
  rcases State.byteComplete_cases t hi hie with ⟨a, hx⟩ | ⟨v, s', -, hx, rfl | ⟨a, b, rfl⟩, hk⟩ <;> rw [hx]
  · exact State.xport_modXport_other s _ hu
  · exact hk.other u hu
  · exact hk.other u hu

/-- Who changes a transport in a move that is taken. -/
theorem State.Took.xport {s s' : State} {m : Move} (h : s.Took m s') (hr : m.isReset = false) (t : Bus) :
    s'.xport t = s.xport t
      ∨ m.agent = some (.per t) ∨ m = .interrupt (.bc t) ∨ ∃ p d, s.issues m = some (.enq t p d) := by
  cases h with
  | operation s hp hready hd hx =>
    rw [State.issues_software hd]
    exact (exec_xport hx (decodeOp_not_event hd) t).imp_right fun ⟨p, d, hi⟩ => .inr (.inr ⟨p, d, congrArg some hi⟩)
  | illegal s hp hready hd => exact .inl rfl
  | routine s hready hn hd hx =>
    rw [State.issues_routine hn hd, ← s.xport_advance]
    exact (exec_xport hx (decodeOp_not_event hd) t).imp_right fun ⟨p, d, hi⟩ => .inr (.inr ⟨p, d, congrArg some hi⟩)
  | routineIllegal s hready hn hd => exact .inl (s.xport_advance t)
  | scan s b hi hm => exact .inl (s.scanBit_xport b t)
  | tickEntry s hi hie hp => exact .inl rfl
  | byteComplete s u hi hie hp =>
    by_cases hu : t = u
    · exact .inr (.inr (.inl (hu ▸ rfl)))
    · exact .inl (State.byteComplete_xport_other hi hie hu)
  | tickScan s i hi => exact .inl (s.tickScan_xport i t)
  | tick s hd => exact .inl rfl
  | bytedone s u v hd hi =>
    by_cases hu : t = u
    · exact .inr (.inl (by simp [Move.agent, hd, hu]))
    · exact .inl ((State.xport_emit ..).trans (State.xport_modXport_other s _ hu))
  | externalWrite s a v => exact .inl rfl
  | externalReset s launch => cases hr

theorem State.issues_withMoves (s : State) (ms : List Move) (m : Move) : (s.withMoves ms).issues m = s.issues m := by
  cases m <;> rfl

/-- Settles O44. -/
theorem instancesAreIndependent : Obligations.InstancesAreIndependent := by
  intro s s' m rest t hmoves hr hs hne
  obtain ⟨hc, -⟩ := step_inv hs
  rw [step_eq hc hmoves] at hs
  have hx := (State.took_of_take hs).2.xport hr t
  rw [s.issues_withMoves rest] at hx
  exact hx.resolve_left hne

end Sys2Proof.Machine
end

section
/-! The ring as a queue of commands (42_transport R204): `ENQ` appends its command, `CompleteRow` removes the oldest,
`StartRow` the zero-length ones behind it. -/

namespace Sys2Proof.Machine

/-- A command as its `ENQ` gave it: the payload and the destinations (42_transport R204). -/
abbrev Command := List Byte × List Addr

/-- The command that a row holds. -/
def Row.command (w : Row) : Command := (w.data.take w.txLen.toNat, w.dest.take w.rxLen.toNat)

theorem Transport.commands_eq (x : Transport) :
    x.commands = (List.range x.count).map fun k => (x.row ((x.rd + k) % x.rows.length)).command := rfl

theorem Transport.commands_length (x : Transport) : x.commands.length = x.count := by
  simp [Transport.commands_eq]

/-- The row that `ENQ` fills holds its command (42_transport R192). -/
theorem Row.command_fill (w : Row) {payload : List Byte} {dests : List Addr} {k : Nat} (hk : k ≤ 254)
    (hl : payload.length + dests.length ≤ k) : (w.fill payload dests).command = (payload, dests) := by
  obtain ⟨htx, hrx⟩ := w.fill_lengths hk hl
  rw [Row.command, htx, hrx]
  simp [Row.fill, overlay]

/-- A zero-length row holds the empty command. -/
theorem Row.command_of_zero {w : Row} (htx : w.txLen = 0#8) (hrx : w.rxLen = 0#8) : w.command = ([], []) := by
  simp [Row.command, htx, hrx]

theorem Transport.count_retire {x : Transport} (c : BusConfig) (ho : x.occupied x.rd = true) :
    (x.retire c).count + 1 = x.count := by
  have hset := Transport.count_setRow { x.row x.rd with txLen := emptyLen } (Transport.lt_of_occupied ho)
  show (x.setRow x.rd { x.row x.rd with txLen := emptyLen }).count + 1 = x.count
  simpa [ho, Row.occupied] using hset

/-- The oldest command is the one of the row in exchange, and `CompleteRow` removes it (42_transport R197, R204). -/
theorem Transport.RingShape.commands_cons {c : BusConfig} {x : Transport} (h : x.RingShape c)
    (ho : x.occupied x.rd = true) : x.commands = (x.row x.rd).command :: (x.retire c).commands := by
  have hcount := Transport.count_retire c ho
  have hle := h.count_le_rows
  have hlen : (x.retire c).rows.length = c.rows := (h.retire ho).length
  rw [Transport.commands_eq, ← hcount, List.range_succ_eq_map, List.map_cons, List.map_map, Transport.commands_eq, hlen,
    h.length]
  refine congrArg₂ List.cons ?_ (List.map_congr_left fun k hk => ?_)
  · rw [Nat.add_zero, Nat.mod_eq_of_lt h.rd_lt]
  · have hlt := List.mem_range.mp hk
    have hne : (x.rd + (k + 1)) % c.rows ≠ x.rd := fun he => absurd
      (ringOffset_inj (by omega) (by omega) (he.trans (Nat.mod_eq_of_lt h.rd_lt).symm)) (Nat.succ_ne_zero k)
    show (x.row ((x.rd + (k + 1)) % c.rows)).command = _
    rw [← x.row_setRow_other { x.row x.rd with txLen := emptyLen } hne, ← ringInc_offset]
    rfl

/-- `ENQ` appends its command (42_transport R192, R204). -/
theorem Transport.RingShape.commands_append {c : BusConfig} {x : Transport} {payload : List Byte} {dests : List Addr}
    (h : x.RingShape c) (hk : c.rowCap ≤ 254) (hl : payload.length + dests.length ≤ c.rowCap) (hf : x.full = false) :
    (x.append c payload dests).commands = x.commands ++ [(payload, dests)] := by
  have hcount := (h.append hk hl hf).2
  have hroom := h.count_lt_of_not_full hf
  have hlen : (x.append c payload dests).rows.length = x.rows.length := List.length_set
  rw [Transport.commands_eq, hcount, hlen, List.range_succ, List.map_append, Transport.commands_eq]
  congr 1
  · refine List.map_congr_left fun k hk => ?_
    have hne : (x.rd + k) % x.rows.length ≠ x.wr := fun he => by
      rw [h.length, h.wr_eq] at he
      have := ringOffset_inj (by have := List.mem_range.mp hk; omega) hroom he
      exact absurd (List.mem_range.mp hk) (by omega)
    exact congrArg Row.command (x.row_setRow_other _ hne)
  · have hwr : (x.rd + x.count) % x.rows.length = x.wr := by rw [h.length, h.wr_eq]
    have hrow : (x.append c payload dests).row x.wr = (x.row x.wr).fill payload dests :=
      Transport.row_setRow_same _ (h.length ▸ h.wr_lt)
    simp [hwr, hrow, Row.command_fill _ hk hl]

/-! ## What has left the ring -/

/-- Of the commands `cs` the k oldest have left the ring; when one has left, the completion event is set. -/
structure State.Retired (t : Bus) (cs : List Command) (k : Nat) (s' : State) : Prop where
  le : k ≤ cs.length
  commands : (s'.xport t).commands = cs.drop k
  posted : 0 < k → s'.events.getLsbD (s'.cfg.bus t).evDone.val = true

theorem State.Retired.none {t : Bus} {cs : List Command} {s' : State} (h : (s'.xport t).commands = cs) :
    s'.Retired t cs 0 :=
  ⟨Nat.zero_le _, h, fun h0 => absurd h0 (Nat.lt_irrefl 0)⟩

/-- `CompleteRow` posts the completion, and `StartRow` leaves it (42_transport R197). -/
theorem State.nextRow_posts (t : Bus) (s : State) :
    (s.nextRow t).events.getLsbD ((s.nextRow t).cfg.bus t).evDone.val = true := by
  have hdone : (s.completeRow t).events.getLsbD (s.cfg.bus t).evDone.val = true := by
    rw [State.completeRow_events, BitVec.getLsbD_or, eventBit_getLsbD, decide_eq_true rfl, Bool.or_true]
  rw [(s.nextRow_kept t).cfg]
  rcases (State.startRow_kept t (s.completeRow t)).events with he | he <;> rw [State.nextRow, he]
  · exact hdone
  · exact getLsbD_or_left hdone

/-- `CompleteRow` and `StartRow` remove the oldest command and the ones that `StartRow` removes behind it. -/
theorem State.Retired.nextRow {t : Bus} {s : State} {k : Nat} (h : (s.xport t).RingShape (s.cfg.bus t))
    (ho : (s.xport t).occupied (s.xport t).rd = true)
    (hk : (s.nextRow t).Retired t ((s.completeRow t).xport t).commands k) :
    (s.nextRow t).Retired t (s.xport t).commands (k + 1) := by
  obtain ⟨hle, hcommands, -⟩ := hk
  rw [State.xport_completeRow_same] at hle hcommands
  rw [h.commands_cons ho]
  exact ⟨Nat.succ_le_succ hle, hcommands, fun _ => s.nextRow_posts t⟩

/-- `StartRow` removes zero-length commands only (42_transport R196). -/
theorem State.startRow_retired (t : Bus) (s : State) : (s.xport t).RingShape (s.cfg.bus t) →
    ∃ k, (s.startRow t).Retired t (s.xport t).commands k ∧ ∀ c ∈ (s.xport t).commands.take k, c = ([], []) := by
  refine State.startRow_induction t (P := fun s s' => (s.xport t).RingShape (s.cfg.bus t) →
    ∃ k, s'.Retired t (s.xport t).commands k ∧ ∀ c ∈ (s.xport t).commands.take k, c = ([], []))
    (fun s _ _ => ⟨0, .none ?_, by simp⟩) (fun s _ _ _ => ⟨0, .none ?_, by simp⟩)
    (fun s _ _ _ => ⟨0, .none ?_, by simp⟩) (fun s htx hrx ih h => ?_) s
  · rw [State.xport_setPhase_same]; rfl
  · rw [State.xport_load_same, State.xport_setPhase_same]; rfl
  · rw [State.xport_load_same, State.xport_setPhase_same]; rfl
  · have ho := Transport.occupied_of_txLen_zero htx
    have hshape := h.retire ho
    rw [State.completeRow_cfg] at ih
    have hx := s.xport_completeRow_same t
    obtain ⟨k, hk, hzero⟩ := ih (hx ▸ hshape)
    refine ⟨k + 1, .nextRow h ho hk, ?_⟩
    rw [h.commands_cons ho, List.take_succ_cons, Row.command_of_zero htx hrx]
    rw [hx] at hzero
    exact List.forall_mem_cons.mpr ⟨rfl, hzero⟩

/-- The oldest commands have left the ring, all but the first of length zero (42_transport R204). -/
def State.RingAfter (t : Bus) (cs : List Command) (s' : State) : Prop :=
  ∃ k, s'.Retired t cs k ∧ ∀ c ∈ (cs.take k).tail, c = ([], [])

theorem State.RingAfter.of_commands_eq {t : Bus} {cs : List Command} {s' : State} (h : (s'.xport t).commands = cs) :
    s'.RingAfter t cs :=
  ⟨0, .none h, by simp⟩

theorem State.nextRow_ringAfter {t : Bus} {s : State} (h : (s.xport t).RingShape (s.cfg.bus t))
    (ho : (s.xport t).occupied (s.xport t).rd = true) : (s.nextRow t).RingAfter t (s.xport t).commands := by
  have hx := s.xport_completeRow_same t
  have hshape : ((s.completeRow t).xport t).RingShape ((s.completeRow t).cfg.bus t) := by
    rw [hx, State.completeRow_cfg]
    exact h.retire ho
  obtain ⟨k, hk, hzero⟩ := State.startRow_retired t _ hshape
  refine ⟨k + 1, .nextRow h ho hk, ?_⟩
  rw [hx] at hzero
  rwa [h.commands_cons ho, List.take_succ_cons, List.tail_cons]

/-! ## The byte-complete ISR and `ENQ` -/

theorem State.bcSending_ringAfter {t : Bus} {s : State} (h : (s.xport t).inv (s.cfg.bus t))
    (hp : (s.xport t).phase = .sending) : (s.bcSending t).RingAfter t (s.xport t).commands := by
  unfold State.bcSending
  simp only
  split
  · exact .of_commands_eq (by rw [State.xport_modXport_same, State.xport_load_same]; rfl)
  · split
    · exact .of_commands_eq (by rw [State.xport_load_same, State.xport_modXport_same]; rfl)
    · exact State.nextRow_ringAfter h.shape (h.occupied_rd (by simp [hp]))

theorem State.bcReceiving_ringAfter {t : Bus} {s s' : State} (h : (s.xport t).inv (s.cfg.bus t))
    (hp : (s.xport t).phase = .receiving) (hr : s.bcReceiving t = .ok s') : s'.RingAfter t (s.xport t).commands := by
  cases hvalid : s.cfg.destOk (s.destination t) with
  | false => rw [State.bcReceiving_of_invalid hvalid] at hr; cases hr
  | true =>
    rw [State.bcReceiving_of_valid hvalid] at hr
    generalize hs2 : ((s.stored (s.destination t) (s.xport t).rxData).modXport t
      fun x => { x with rxIdx := (s.xport t).rxIdx + 1 }) = s2 at hr
    have hx : s2.xport t = { s.xport t with rxIdx := (s.xport t).rxIdx + 1 } := by rw [← hs2]; cases t <;> rfl
    have hcfg : s2.cfg = s.cfg := by rw [← hs2]; exact State.modXport_cfg ..
    have hnext : (s2.nextRow t).RingAfter t (s2.xport t).commands :=
      State.nextRow_ringAfter (by rw [hx, hcfg]; exact { h.shape with })
        (by rw [hx]; exact h.occupied_rd (by simp [hp]))
    rw [hx] at hnext
    cases hr
    split
    · exact .of_commands_eq (by rw [State.xport_load_same, hx]; rfl)
    · exact hnext

theorem State.bcBody_ringAfter {t : Bus} {s s' : State} (h : (s.xport t).inv (s.cfg.bus t)) (hx : s.bcBody t = .ok s') :
    s'.RingAfter t (s.xport t).commands := by
  unfold State.bcBody at hx
  split at hx
  · next hp => cases hx; exact State.bcSending_ringAfter h hp
  · next hp => exact State.bcReceiving_ringAfter h hp hx
  · cases hx; exact .of_commands_eq rfl

/-- The byte-complete ISR removes the row it completes and the zero-length ones behind it (42_transport R200, R201). -/
theorem State.byteComplete_ringAfter {s : State} {t : Bus} (h : (s.xport t).inv (s.cfg.bus t)) (hi : s.isr = .none)
    (hie : s.ie = true) : (s.byteComplete t).RingAfter t (s.xport t).commands := by
  have henter := s.xport_enterBc t
  rcases State.byteComplete_cases t hi hie with ⟨a, hx⟩ | ⟨u, s', hbody, hx, -, -⟩ <;> rw [hx]
  · exact .of_commands_eq (by cases t <;> rfl)
  · have hs' := State.bcBody_ringAfter (by rw [henter, State.enterInterrupt_cfg]; exact h.clear_bcPend) hbody
    rw [henter] at hs'
    obtain ⟨k, ⟨hle, hcommands, hposted⟩, hzero⟩ := hs'
    exact ⟨k, ⟨hle, by rw [State.xport_returnInterrupt]; exact hcommands, hposted⟩, hzero⟩

/-- The commands that an operation appends to transport t: those of an `ENQ` that returns `OK` (42_transport R192). -/
def acceptedCommands (t : Bus) (i : Option Instr) (s' : State) : List Command :=
  match i with
  | some (.enq u p d) => if u = t ∧ s'.trace.getLast? = some (.result .enq .ok 0#16) then [(p, d)] else []
  | _ => []

theorem acceptedCommands_of_not_enq {t : Bus} {i : Option Instr} (s' : State) (h : ∀ p d, i ≠ some (.enq t p d)) :
    acceptedCommands t i s' = [] := by
  unfold acceptedCommands
  split
  · next u p d => exact if_neg fun ⟨hu, _⟩ => h p d (hu ▸ rfl)
  · rfl

/-- The status that `ENQ` returns decides whether its command is accepted. -/
theorem acceptedCommands_finish (t : Bus) (p : List Byte) (d : List Addr) (st : Status) (u : State) :
    acceptedCommands t (some (.enq t p d)) (u.finish .enq st 0#16) = if st = .ok then [(p, d)] else [] := by
  simp [acceptedCommands]

/-- `ENQ` appends its command, and on an Idle transport a zero-length one leaves at once (42_transport R192, R194). -/
theorem execEnq_ringAfter {s s' : State} {t : Bus} {p : List Byte} {d : List Addr}
    (h : (s.xport t).inv (s.cfg.bus t)) (hk : (s.cfg.bus t).rowCap ≤ 254) (hx : execEnq t p d s = .next s') :
    s'.RingAfter t ((s.xport t).commands ++ acceptedCommands t (some (.enq t p d)) s') := by
  unfold execEnq at hx
  split at hx
  · cases hx
    rw [acceptedCommands_finish]
    exact .of_commands_eq (by simp)
  · next hl =>
    split at hx
    · cases hx
      rw [acceptedCommands_finish]
      exact .of_commands_eq (by cases t <;> simp <;> rfl)
    · next hfull =>
      have hl' := Nat.le_of_not_lt hl
      have hf : (s.xport t).full = false := by simpa using hfull
      have happ : (s.appendRow t p d).xport t = (s.xport t).append (s.cfg.bus t) p d := State.xport_appendRow_same ..
      have hcommands := h.shape.commands_append hk hl' hf
      cases hx
      rw [acceptedCommands_finish, if_pos rfl, ← hcommands, ← happ]
      split
      · have hshape := (h.shape.append hk hl' hf).1
        obtain ⟨k, ⟨hle, hleft, hposted⟩, hzero⟩ := State.startRow_retired t (s.appendRow t p d) (by
          rw [happ, State.appendRow_cfg]; exact hshape)
        exact ⟨k, ⟨hle, by rw [State.xport_finish]; exact hleft, hposted⟩,
          fun c hc => hzero c (List.mem_of_mem_tail hc)⟩
      · exact .of_commands_eq (by rw [State.xport_finish])

/-! ## One move -/

/-- A move that issues an operation runs it, from the state itself or with the routine's position moved on. -/
theorem State.Took.exec_of_issues {s s' : State} {m : Move} {i : Instr} (h : s.Took m s') (hi : s.issues m = some i) :
    ∃ u, (u = s ∨ u = s.advance) ∧ exec i u = .next s' := by
  cases h with
  | operation s hp hr hd hx =>
    rw [State.issues_software hd] at hi
    cases hi
    exact ⟨s, .inl rfl, hx⟩
  | routine s hr hn hd hx =>
    rw [State.issues_routine hn hd] at hi
    cases hi
    exact ⟨s.advance, .inr rfl, hx⟩
  | illegal s hp hr hd => simp [State.issues, State.presented, hd, Except.toOption] at hi
  | routineIllegal s hr hn hd => simp [State.issues, State.presented, hn, hd, Except.toOption] at hi
  | _ => cases hi

/-- The peripheral's move changes its transport's byte in flight, received byte and pending flag (42_transport R198). -/
theorem State.Took.xport_of_per {s s' : State} {m : Move} {t : Bus} (h : s.Took m s') (hm : m.agent = some (.per t)) :
    ∃ v, s'.xport t = { s.xport t with infl := none, rxData := v, bcPend := true } := by
  cases h with
  | bytedone s u v hd hi =>
    obtain rfl : u = t := by simpa [Move.agent, hd] using hm
    exact ⟨v, by rw [State.xport_emit, State.xport_modXport_same]⟩
  | tick s hd => simp [Move.agent, hd] at hm
  | _ => cases hm

theorem State.Took.ringAfter {s s' : State} {m : Move} (h : s.Took m s') (hinv : s.Inv) (hr : m.isReset = false)
    (t : Bus) : s'.RingAfter t ((s.xport t).commands ++ acceptedCommands t (s.issues m) s') := by
  by_cases henq : ∃ p d, s.issues m = some (.enq t p d)
  · obtain ⟨p, d, hi⟩ := henq
    obtain ⟨u, hu, hx⟩ := h.exec_of_issues hi
    have hsame : u.xport t = s.xport t ∧ u.Inv := by
      rcases hu with rfl | rfl
      · exact ⟨rfl, hinv⟩
      · exact ⟨s.xport_advance t, State.advance_inv hinv⟩
    rw [hi, ← hsame.1]
    exact execEnq_ringAfter (hsame.2.ring t) (hsame.2.rowCap_le t) hx
  · rw [acceptedCommands_of_not_enq s' fun p d hi => henq ⟨p, d, hi⟩, List.append_nil]
    rcases h.xport hr t with hx | hper | rfl | hi
    · exact .of_commands_eq (congrArg _ hx)
    · obtain ⟨v, hx⟩ := h.xport_of_per hper
      exact .of_commands_eq (congrArg Transport.commands hx :)
    · cases h with
      | byteComplete s t hi hie hp => exact State.byteComplete_ringAfter (hinv.ring t) hi hie
    · exact absurd hi henq

/-- Settles O43. -/
theorem ringIsAQueueOfCommands : Obligations.RingIsAQueueOfCommands := by
  intro s s' m rest t h hmoves hr hs accepted
  rw [step_eq h.config hmoves] at hs
  have took := (State.took_of_take hs).2
  obtain ⟨k, ⟨hle, hcommands, hposted⟩, hzero⟩ := took.ringAfter { h with } hr t
  rw [s.issues_withMoves rest] at hle hcommands hzero
  rw [took.cfg] at hposted
  exact ⟨k, hle, hcommands, hzero, hposted⟩

end Sys2Proof.Machine
end

section
/-! What passes between a transport and its peripheral from one state to a later one, and the end of the only command of
a ring (42_transport R195-R203). -/

namespace Sys2Proof.Machine

/-! ## What passes between a transport and its peripheral -/

/-- The byte that the entry reports as sent (10_state R58). -/
def TraceEntry.sent : TraceEntry → Option Byte
  | .wire _ x => some x
  | _ => none

/-- The byte that the entry reports as received (10_state R58). -/
def TraceEntry.received : TraceEntry → Option Byte
  | .rx _ v => some v
  | _ => none

/-- The byte of data memory that the entry reports as written, with its address (10_state R58). -/
def TraceEntry.storedAt : TraceEntry → Option (Addr × Byte)
  | .mem a v => some (a, v)
  | _ => none

/-- From s to u transport t alone moves: it sends the bytes `out`, receives the bytes `back` and stores `cells`. -/
structure State.Exchanges (t : Bus) (out back : List Byte) (cells : List (Addr × Byte)) (s u : State) : Prop where
  kept : State.KeptByTransport t { s with dm := u.dm } u
  dm : u.dm = cells.foldl (fun m c => Memory.write m c.1.toNat c.2) s.dm
  trace : ∃ added, u.trace = s.trace ++ added ∧ added.filterMap TraceEntry.sent = out
    ∧ added.filterMap TraceEntry.received = back ∧ added.filterMap TraceEntry.storedAt = cells

theorem State.Exchanges.trans {t : Bus} {out out' back back' : List Byte} {cells cells' : List (Addr × Byte)}
    {s u u' : State} (h : s.Exchanges t out back cells u) (h' : u.Exchanges t out' back' cells' u') :
    s.Exchanges t (out ++ out') (back ++ back') (cells ++ cells') u' where
  kept := by
    have k : State.KeptByTransport t { s with dm := u'.dm } { u with dm := u'.dm } := { h.kept with dm := rfl }
    exact k.trans h'.kept
  dm := by rw [h'.dm, h.dm, List.foldl_append]
  trace := by
    obtain ⟨added, hu, rfl, rfl, rfl⟩ := h.trace
    obtain ⟨added', hu', rfl, rfl, rfl⟩ := h'.trace
    exact ⟨added ++ added', by rw [hu', hu, List.append_assoc], by simp, by simp, by simp⟩

/-- A change of the transport alone, with what it reports; no byte is stored. -/
theorem State.Exchanges.of_kept {t : Bus} {s u : State} (k : s.KeptByTransport t u) {added : List TraceEntry}
    (htrace : u.trace = s.trace ++ added) (hcells : added.filterMap TraceEntry.storedAt = []) :
    s.Exchanges t (added.filterMap TraceEntry.sent) (added.filterMap TraceEntry.received) [] u :=
  ⟨{ k with dm := rfl }, k.dm, added, htrace, rfl, rfl, hcells⟩

theorem State.Exchanges.silent {t : Bus} {s u : State} (k : s.KeptByTransport t u) (htrace : u.trace = s.trace) :
    s.Exchanges t [] [] [] u :=
  .of_kept k (added := []) (by rw [htrace, List.append_nil]) rfl

theorem State.Exchanges.modXport (t : Bus) (s : State) (f : Transport → Transport) :
    s.Exchanges t [] [] [] (s.modXport t f) :=
  .silent (s.modXport_kept t f) (s.modXport_trace t f)

theorem State.Exchanges.load (t : Bus) (s : State) (x : Byte) : s.Exchanges t [x] [] [] (s.load t x) :=
  .of_kept (s.load_kept t x) (added := [.wire t x]) (s.load_trace t x) rfl

theorem State.Exchanges.rx (t : Bus) (s : State) (v : Byte) : s.Exchanges t [] [v] [] (s.emit (.rx t v)) :=
  .of_kept (s.emit_kept t _) (added := [.rx t v]) rfl rfl

theorem State.Exchanges.stored (t : Bus) (s : State) (a : Addr) (v : Byte) :
    s.Exchanges t [] [] [(a, v)] (s.stored a v) :=
  ⟨{ State.KeptByTransport.refl t s with dm := rfl, trace := List.prefix_append .. }, rfl, [.mem a v], rfl, rfl, rfl,
    rfl⟩

/-- Entry and return around the ISR body (60_exceptions R262, R263). -/
theorem State.Exchanges.returned {t : Bus} {out back : List Byte} {cells : List (Addr × Byte)} {s u : State}
    (hi : s.isr = .none) (hie : s.ie = true) (h : (s.enterInterrupt (.bc t)).Exchanges t out back cells u) :
    s.Exchanges t out back cells u.returnInterrupt where
  kept := by
    have hcomm : { s.enterInterrupt (.bc t) with dm := u.dm } = State.enterInterrupt (.bc t) { s with dm := u.dm } := by
      cases t <;> rfl
    have k := h.kept
    rw [hcomm] at k
    exact k.returned hi hie
  dm := by
    have hdm := h.dm
    rwa [State.enterInterrupt_dm] at hdm
  trace := by
    have htrace := h.trace
    rwa [State.enterInterrupt_trace] at htrace

/-! ## The end of a command -/

/-- The exchange ends the only command: its completion is posted, and the transport is at rest with an empty ring. -/
structure State.Completes (t : Bus) (out back : List Byte) (cells : List (Addr × Byte)) (s u : State) : Prop
    extends State.Exchanges t out back cells s u where
  posted : u.events = s.events ||| eventBit (s.cfg.bus t).evDone
  atRest : (u.xport t).atRest
  empty : (u.xport t).count = 0
  rd : (u.xport t).rd = ringInc (s.cfg.bus t).rows (s.xport t).rd

/-- What comes before the end, with the row still in exchange. -/
theorem State.Completes.after {t : Bus} {out out' back back' : List Byte} {cells cells' : List (Addr × Byte)}
    {s u u' : State} (h' : u.Completes t out' back' cells' u') (h : s.Exchanges t out back cells u)
    (hevents : u.events = s.events) (hrd : (u.xport t).rd = (s.xport t).rd) :
    s.Completes t (out ++ out') (back ++ back') (cells ++ cells') u' where
  toExchanges := h.trans h'.toExchanges
  posted := by rw [h'.posted, hevents, h.kept.cfg]
  atRest := h'.atRest
  empty := h'.empty
  rd := by rw [h'.rd, hrd, h.kept.cfg]

/-- `CompleteRow` and `StartRow` end the only command (42_transport R196, R197). -/
theorem State.Completes.nextRow {t : Bus} {s : State} (h : (s.xport t).RingShape (s.cfg.bus t))
    (hcount : (s.xport t).count = 1) (hi : (s.xport t).infl = none) (hb : (s.xport t).bcPend = false) :
    s.Completes t [] [] [] (s.nextRow t) := by
  have ho : (s.xport t).occupied (s.xport t).rd = true := by rw [h.occupied_rd, hcount]; rfl
  have hretire := Transport.count_retire (s.cfg.bus t) ho
  have hkept := s.nextRow_kept t
  rw [State.nextRow_of_count_one h hcount] at hkept ⊢
  have hx : (((s.completeRow t).setPhase t .idle 0 0).xport t)
      = { (s.xport t).retire (s.cfg.bus t) with phase := .idle, txIdx := 0, rxIdx := 0 } := by
    rw [State.xport_setPhase_same, State.xport_completeRow_same]
  refine ⟨.silent hkept (by rw [State.setPhase_trace, State.completeRow_trace]), ?_, ?_, ?_, ?_⟩
  · rw [State.setPhase_events, State.completeRow_events]
  · rw [hx]; exact ⟨rfl, hi, hb⟩
  · rw [hx]; exact Nat.succ.inj (hretire.trans hcount)
  · rw [hx]

theorem State.Completes.returned {t : Bus} {out back : List Byte} {cells : List (Addr × Byte)} {s u : State}
    (hi : s.isr = .none) (hie : s.ie = true) (h : (s.enterInterrupt (.bc t)).Completes t out back cells u) :
    s.Completes t out back cells u.returnInterrupt where
  toExchanges := h.toExchanges.returned hi hie
  posted := by
    have hposted := h.posted
    rwa [State.enterInterrupt_events, State.enterInterrupt_cfg] at hposted
  atRest := by rw [State.xport_returnInterrupt]; exact h.atRest
  empty := by rw [State.xport_returnInterrupt]; exact h.empty
  rd := by
    have hrd := h.rd
    rw [State.xport_enterBc, State.enterInterrupt_cfg] at hrd
    rw [State.xport_returnInterrupt, hrd]

end Sys2Proof.Machine
end

section
/-! The bytes of a command, one after another (42_transport R200, R201, R203): each that completes sends the next one or
stores what came back, and the last one retires the row. -/

namespace Sys2Proof.Machine

/-! ## One byte completes, and its interrupt is taken -/

/-- The only command is in exchange, a byte is in flight, and its interrupt will be taken. -/
structure State.Exchanging (t : Bus) (s : State) : Prop where
  inv : s.Inv
  fault : s.fault.any = false
  isr : s.isr = .none
  ie : s.ie = true
  inFlight : (s.xport t).infl.isSome = true
  alone : (s.xport t).count = 1

/-- The state once the peripheral has completed the byte in flight (42_transport R198). -/
abbrev State.byteDone (t : Bus) (v : Byte) (s : State) : State :=
  (s.modXport t fun x => { x with infl := none, rxData := v, bcPend := true }).emit (.rx t v)

/-- The state in which the ISR body runs for that byte (60_exceptions R262). -/
abbrev State.byteTaken (t : Bus) (v : Byte) (s : State) : State := (s.byteDone t v).enterInterrupt (.bc t)

theorem State.xport_byteTaken (t : Bus) (v : Byte) (s : State) :
    (s.byteTaken t v).xport t = { s.xport t with infl := none, rxData := v, bcPend := false } := by
  cases t <;> rfl

theorem State.currentRow_byteTaken (t : Bus) (v : Byte) (s : State) :
    (s.byteTaken t v).currentRow t = s.currentRow t := by
  cases t <;> rfl

theorem State.byteTaken_cfg (t : Bus) (v : Byte) (s : State) : (s.byteTaken t v).cfg = s.cfg := by
  cases t <;> rfl

theorem State.exchanges_byteDone (t : Bus) (v : Byte) (s : State) : s.Exchanges t [] [v] [] (s.byteDone t v) :=
  (State.Exchanges.modXport t s _).trans (.rx t _ v)

/-- The two moves of `exchange` for one byte, when the ISR body raises no fault. -/
theorem State.Exchanging.follow_exchange {t : Bus} {v : Byte} {s u : State} (h : s.Exchanging t)
    (hbody : (s.byteTaken t v).bcBody t = .ok u) :
    u.returnInterrupt.Inv ∧ ∀ vs, s.follow (exchange t (v :: vs)) = u.returnInterrupt.follow (exchange t vs) := by
  have hdone : s.take (.event (encode (.bytedone t v)).word) = .next (s.byteDone t v) :=
    State.take_of_took (fun _ => h.fault) (.bytedone s t v (decodeEvent_encode rfl) h.inFlight)
  have hinv := h.inv.of_take hdone
  have hisr : (s.byteDone t v).isr = .none := (State.modXport_isr ..).trans h.isr
  have hie : (s.byteDone t v).ie = true := (State.modXport_ie ..).trans h.ie
  have hpend : ((s.byteDone t v).xport t).bcPend = true := by rw [State.xport_emit, State.xport_modXport_same]
  have hfault : (s.byteDone t v).fault.any = false := (congrArg FaultSet.any (State.modXport_fault ..)).trans h.fault
  have htaken : (s.byteDone t v).take (.interrupt (.bc t)) = .next u.returnInterrupt := by
    rw [← State.byteComplete_of_ok hbody]
    exact State.take_of_took (fun _ => hfault) (.byteComplete _ t hisr hie hpend)
  exact ⟨hinv.of_take htaken, fun vs =>
    (State.follow_cons h.inv.config hdone _).trans (State.follow_cons hinv.config htaken _)⟩

/-- The byte v completes and its interrupt is taken, and the command goes on: the row stays in exchange, with the next
byte in flight. -/
structure State.Continues (t : Bus) (v : Byte) (out : List Byte) (cells : List (Addr × Byte)) (s u : State) : Prop where
  exchanging : u.Exchanging t
  exchanges : s.Exchanges t out [v] cells u
  events : u.events = s.events
  rd : (u.xport t).rd = (s.xport t).rd
  row : u.currentRow t = s.currentRow t
  follow : ∀ vs, s.follow (exchange t (v :: vs)) = u.follow (exchange t vs)

/-- The ISR body leaves the rows and loads the next byte. -/
theorem State.Exchanging.continues {t : Bus} {v : Byte} {s u : State} {out : List Byte} {cells : List (Addr × Byte)}
    (h : s.Exchanging t) (hbody : (s.byteTaken t v).bcBody t = .ok u)
    (hu : (s.byteTaken t v).Exchanges t out [] cells u) (hevents : u.events = (s.byteTaken t v).events)
    (hrows : (u.xport t).rows = (s.xport t).rows) (hrd : (u.xport t).rd = (s.xport t).rd)
    (hinfl : (u.xport t).infl.isSome = true) : s.Continues t v out cells u.returnInterrupt := by
  have hdone := s.exchanges_byteDone t v
  have hback := State.Exchanges.returned (hdone.kept.isr.trans h.isr) (hdone.kept.ie.trans h.ie) hu
  have hall := hdone.trans hback
  obtain ⟨hinv, hfollow⟩ := h.follow_exchange hbody
  have hx := State.xport_returnInterrupt u t
  refine ⟨⟨hinv, (congrArg FaultSet.any hall.kept.fault).trans h.fault, rfl, rfl, ?_, ?_⟩, hall, ?_, ?_, ?_, hfollow⟩
  · rwa [hx]
  · rw [hx, Transport.count, hrows]; exact h.alone
  · exact hevents.trans (by cases t <;> rfl)
  · rw [hx, hrd]
  · rw [State.currentRow, hx, Transport.row, hrows, hrd]; rfl

/-- What comes after such a byte. -/
theorem State.Continues.completes {t : Bus} {v : Byte} {s u : State} {out out' vs : List Byte}
    {cells cells' : List (Addr × Byte)} (h : s.Continues t v out cells u)
    (hu : ∃ u', u.follow (exchange t vs) = .next (u'.withMoves []) ∧ u.Completes t out' vs cells' u') :
    ∃ u', s.follow (exchange t (v :: vs)) = .next (u'.withMoves [])
      ∧ s.Completes t (out ++ out') (v :: vs) (cells ++ cells') u' := by
  obtain ⟨u', hfollow, hend⟩ := hu
  exact ⟨u', (h.follow vs).trans hfollow, hend.after h.exchanges h.events h.rd⟩

/-- The ISR body ends the command. -/
theorem State.Exchanging.ends {t : Bus} {v : Byte} {s u : State} {out : List Byte} {cells : List (Addr × Byte)}
    (h : s.Exchanging t) (hbody : (s.byteTaken t v).bcBody t = .ok u)
    (hu : (s.byteTaken t v).Completes t out [] cells u) :
    s.follow (exchange t [v]) = .next (u.returnInterrupt.withMoves [])
      ∧ s.Completes t out [v] cells u.returnInterrupt := by
  have hdone := s.exchanges_byteDone t v
  have hback := State.Completes.returned (hdone.kept.isr.trans h.isr) (hdone.kept.ie.trans h.ie) hu
  refine ⟨((h.follow_exchange hbody).2 []).trans (State.follow_nil _), hback.after hdone ?_ ?_⟩
  · exact State.modXport_events ..
  · rw [State.xport_emit, State.xport_modXport_same]

theorem getD_of_cons_prefix_drop {α : Type} {l r : List α} {j : Nat} {a : α} (d : α) (h : a :: r <+: l.drop j) :
    l.getD j d = a ∧ r <+: l.drop (j + 1) := by
  obtain ⟨r', hr⟩ := h
  refine ⟨?_, r', ?_⟩
  · rw [List.getD_eq_getElem?_getD, ← List.head?_drop, ← hr]; rfl
  · rw [← List.tail_drop, ← hr]; rfl

/-! ## Phase Receiving (42_transport R201) -/

/-- The bytes to come in phase Receiving go to the destinations `ds`. -/
structure State.Receives (t : Bus) (ds : List Addr) (s : State) : Prop extends State.Exchanging t s where
  phase : (s.xport t).phase = .receiving
  rxLen : (s.currentRow t).rxLen.toNat = (s.xport t).rxIdx + ds.length
  dests : ds <+: (s.currentRow t).dest.drop (s.xport t).rxIdx
  valid : ∀ a ∈ ds, s.cfg.destOk a = true

/-- The byte stored and the cursor moved on, before the fill byte or the retirement. -/
abbrev State.byteStored (t : Bus) (a : Addr) (v : Byte) (s : State) : State :=
  ((s.byteTaken t v).stored a v).modXport t fun x => { x with rxIdx := (s.xport t).rxIdx + 1 }

theorem State.xport_byteStored (t : Bus) (a : Addr) (v : Byte) (s : State) :
    (s.byteStored t a v).xport t =
      { s.xport t with infl := none, rxData := v, bcPend := false, rxIdx := (s.xport t).rxIdx + 1 } := by
  cases t <;> rfl

theorem State.exchanges_byteStored (t : Bus) (a : Addr) (v : Byte) (s : State) :
    (s.byteTaken t v).Exchanges t [] [] [(a, v)] (s.byteStored t a v) :=
  (State.Exchanges.stored t _ a v).trans (.modXport t _ _)

/-- The ISR body stores the byte, and loads the fill byte or retires the row. -/
theorem State.Receives.bcBody_eq {t : Bus} {a : Addr} {ds : List Addr} {s : State} (h : s.Receives t (a :: ds))
    (v : Byte) : (s.byteTaken t v).bcBody t = .ok
      (if (s.xport t).rxIdx + 1 < (s.currentRow t).rxLen.toNat then (s.byteStored t a v).load t (s.cfg.bus t).fill
      else (s.byteStored t a v).nextRow t) := by
  have hx := s.xport_byteTaken t v
  have hrow := s.currentRow_byteTaken t v
  have hdest : (s.byteTaken t v).destination t = a := by
    rw [State.destination, hrow, hx]
    exact (getD_of_cons_prefix_drop _ h.dests).1
  have hcfg := s.byteTaken_cfg t v
  have hphase : ((s.byteTaken t v).xport t).phase = .receiving := by rw [hx]; exact h.phase
  have hvalid : (s.byteTaken t v).cfg.destOk ((s.byteTaken t v).destination t) = true := by
    rw [hdest, hcfg]; exact h.valid a List.mem_cons_self
  rw [State.bcBody_of_receiving hphase, State.bcReceiving_of_valid hvalid, hdest, hx, hrow, hcfg]

theorem State.Receives.next {t : Bus} {a b : Addr} {ds : List Addr} {s : State} (h : s.Receives t (a :: b :: ds))
    (v : Byte) : ∃ u, s.Continues t v [(s.cfg.bus t).fill] [(a, v)] u ∧ u.Receives t (b :: ds) := by
  have hlen := h.rxLen
  simp only [List.length_cons] at hlen
  have hbody := h.bcBody_eq v
  rw [if_pos (by omega)] at hbody
  have hx : ((s.byteStored t a v).load t (s.cfg.bus t).fill).xport t = { s.xport t with
      infl := some (s.cfg.bus t).fill, rxData := v, bcPend := false, rxIdx := (s.xport t).rxIdx + 1 } := by
    rw [State.xport_load_same, State.xport_byteStored]
  have hc := h.continues hbody ((s.exchanges_byteStored t a v).trans (.load t _ _))
    ((State.load_events ..).trans (State.modXport_events ..)) (by rw [hx]) (by rw [hx]) (by rw [hx]; rfl)
  have hrx : _ = (s.xport t).rxIdx + 1 := congrArg Transport.rxIdx ((State.xport_returnInterrupt _ t).trans hx)
  refine ⟨_, hc, hc.exchanging, ?phase, ?rxLen, ?dests, ?valid⟩
  case phase => rw [State.xport_returnInterrupt, hx]; exact h.phase
  case rxLen => rw [hc.row, hrx, List.length_cons]; omega
  case dests => rw [hc.row, hrx]; exact (getD_of_cons_prefix_drop 0#16 h.dests).2
  case valid => rw [hc.exchanges.kept.cfg]; exact fun c hmem => h.valid c (List.mem_cons_of_mem a hmem)

theorem State.Receives.last {t : Bus} {a : Addr} {s : State} (h : s.Receives t [a]) (v : Byte) :
    ∃ u, s.follow (exchange t [v]) = .next (u.withMoves []) ∧ s.Completes t [] [v] [(a, v)] u := by
  have hlen := h.rxLen
  simp only [List.length_singleton] at hlen
  have hbody := h.bcBody_eq v
  rw [if_neg (by omega)] at hbody
  have hx := s.xport_byteStored t a v
  have hcfg : (s.byteStored t a v).cfg = s.cfg := (State.modXport_cfg ..).trans (s.byteTaken_cfg t v)
  have hend : (s.byteStored t a v).Completes t [] [] [] ((s.byteStored t a v).nextRow t) :=
    .nextRow (by rw [hx, hcfg]; exact { (h.inv.ring t).shape with }) (by rw [hx]; exact h.alone) (by rw [hx])
      (by rw [hx])
  have hall := hend.after (s.exchanges_byteStored t a v) (State.modXport_events ..) (by rw [hx, State.xport_byteTaken])
  exact ⟨_, h.ends hbody hall⟩

/-- The rest of a command in phase Receiving, by the destinations to come. -/
theorem State.Receives.completes {t : Bus} {ds : List Addr} : ∀ {a : Addr} {s : State} {vs : List Byte},
    s.Receives t (a :: ds) → vs.length = ds.length + 1 →
    ∃ u, s.follow (exchange t vs) = .next (u.withMoves [])
      ∧ s.Completes t (List.replicate ds.length (s.cfg.bus t).fill) vs ((a :: ds).zip vs) u := by
  induction ds with
  | nil =>
    intro a s vs h hvs
    obtain ⟨v, rfl⟩ := List.length_eq_one_iff.mp hvs
    exact h.last v
  | cons b ds ih =>
    intro a s vs h hvs
    obtain ⟨v, vs, rfl⟩ := List.exists_cons_of_length_eq_add_one hvs
    obtain ⟨u, hc, hu⟩ := h.next v
    have hrest := ih hu (Nat.succ.inj hvs)
    rw [hc.exchanges.kept.cfg] at hrest
    exact hc.completes hrest

/-! ## Phase Sending (42_transport R200) -/

/-- In phase Sending the payload bytes `bs` are to come behind the byte in flight, and then a reply for the
destinations `ds`. -/
structure State.Sends (t : Bus) (bs : List Byte) (ds : List Addr) (s : State) : Prop extends State.Exchanging t s where
  phase : (s.xport t).phase = .sending
  txLen : (s.currentRow t).txLen.toNat = (s.xport t).txIdx + bs.length
  payload : bs <+: (s.currentRow t).data.drop (s.xport t).txIdx
  rxLen : (s.currentRow t).rxLen.toNat = ds.length
  dests : ds <+: (s.currentRow t).dest
  valid : ∀ a ∈ ds, s.cfg.destOk a = true

theorem State.Sends.bcBody_eq {t : Bus} {bs : List Byte} {ds : List Addr} {s : State} (h : s.Sends t bs ds) (v : Byte) :
    (s.byteTaken t v).bcBody t = .ok ((s.byteTaken t v).bcSending t) :=
  State.bcBody_of_sending (by rw [State.xport_byteTaken]; exact h.phase)

/-- The next payload byte goes out. -/
theorem State.Sends.next {t : Bus} {b : Byte} {bs : List Byte} {ds : List Addr} {s : State}
    (h : s.Sends t (b :: bs) ds) (v : Byte) : ∃ u, s.Continues t v [b] [] u ∧ u.Sends t bs ds := by
  have hlen := h.txLen
  simp only [List.length_cons] at hlen
  have hx0 := s.xport_byteTaken t v
  have hrow0 := s.currentRow_byteTaken t v
  obtain ⟨hb, hbs⟩ := getD_of_cons_prefix_drop 0#8 h.payload
  have hbody := h.bcBody_eq v
  rw [State.bcSending_of_payload (by rw [hx0, hrow0]; show (s.xport t).txIdx < _; omega), hx0, hrow0, Row.dataAt,
    hb] at hbody
  have hx : (((s.byteTaken t v).load t b).modXport t fun x => { x with txIdx := (s.xport t).txIdx + 1 }).xport t =
      { s.xport t with infl := some b, rxData := v, bcPend := false, txIdx := (s.xport t).txIdx + 1 } := by
    rw [State.xport_modXport_same, State.xport_load_same, hx0]
  have hc := h.continues hbody ((State.Exchanges.load t _ b).trans (.modXport t _ _))
    ((State.modXport_events ..).trans (State.load_events ..)) (by rw [hx]) (by rw [hx]) (by rw [hx]; rfl)
  have htx : _ = (s.xport t).txIdx + 1 := congrArg Transport.txIdx ((State.xport_returnInterrupt _ t).trans hx)
  refine ⟨_, hc, hc.exchanging, ?phase, ?txLen, ?payload, ?rxLen, ?dests, ?valid⟩
  case phase => rw [State.xport_returnInterrupt, hx]; exact h.phase
  case txLen => rw [hc.row, htx]; omega
  case payload => rw [hc.row, htx]; exact hbs
  case rxLen => rw [hc.row]; exact h.rxLen
  case dests => rw [hc.row]; exact h.dests
  case valid => rw [hc.exchanges.kept.cfg]; exact h.valid

/-- After the last payload byte the reply begins with the fill byte. -/
theorem State.Sends.reply {t : Bus} {a : Addr} {ds : List Addr} {s : State} (h : s.Sends t [] (a :: ds)) (v : Byte) :
    ∃ u, s.Continues t v [(s.cfg.bus t).fill] [] u ∧ u.Receives t (a :: ds) := by
  have htx := h.txLen
  have hrx := h.rxLen
  simp only [List.length_nil, List.length_cons] at htx hrx
  have hx0 := s.xport_byteTaken t v
  have hrow0 := s.currentRow_byteTaken t v
  have hbody := h.bcBody_eq v
  rw [State.bcSending_of_reply (by rw [hx0, hrow0]; show _ ≤ (s.xport t).txIdx; omega) (by rw [hrow0]; omega),
    State.byteTaken_cfg] at hbody
  have hx : (((s.byteTaken t v).modXport t fun x => { x with phase := .receiving, rxIdx := 0 }).load t
      (s.cfg.bus t).fill).xport t = { s.xport t with
        phase := .receiving, rxIdx := 0, infl := some (s.cfg.bus t).fill, rxData := v, bcPend := false } := by
    rw [State.xport_load_same, State.xport_modXport_same, hx0]
  have hc := h.continues hbody ((State.Exchanges.modXport t _ _).trans (.load t _ _))
    ((State.load_events ..).trans (State.modXport_events ..)) (by rw [hx]) (by rw [hx]) (by rw [hx]; rfl)
  have hidx : _ = 0 := congrArg Transport.rxIdx ((State.xport_returnInterrupt _ t).trans hx)
  refine ⟨_, hc, hc.exchanging, ?phase, ?rxLen, ?dests, ?valid⟩
  case phase => rw [State.xport_returnInterrupt, hx]
  case rxLen => rw [hc.row, hidx, h.rxLen, Nat.zero_add]
  case dests => rw [hc.row, hidx]; exact h.dests
  case valid => rw [hc.exchanges.kept.cfg]; exact h.valid

/-- After the last payload byte of a command without a reply the row is retired. -/
theorem State.Sends.last {t : Bus} {s : State} (h : s.Sends t [] []) (v : Byte) :
    ∃ u, s.follow (exchange t [v]) = .next (u.withMoves []) ∧ s.Completes t [] [v] [] u := by
  have htx := h.txLen
  simp only [List.length_nil] at htx
  have hx := s.xport_byteTaken t v
  have hrow := s.currentRow_byteTaken t v
  have hbody := h.bcBody_eq v
  rw [State.bcSending_of_done (by rw [hx, hrow]; show _ ≤ (s.xport t).txIdx; omega)
    (by rw [hrow]; exact BitVec.eq_of_toNat_eq h.rxLen)] at hbody
  have hend : (s.byteTaken t v).Completes t [] [] [] ((s.byteTaken t v).nextRow t) :=
    .nextRow (by rw [hx, State.byteTaken_cfg]; exact { (h.inv.ring t).shape with }) (by rw [hx]; exact h.alone)
      (by rw [hx]) (by rw [hx])
  exact ⟨_, h.ends hbody hend⟩

/-- The rest of a command in phase Sending, by the payload bytes to come. -/
theorem State.Sends.completes {t : Bus} {bs : List Byte} {ds : List Addr} : ∀ {s : State} {vs : List Byte},
    s.Sends t bs ds → vs.length = bs.length + 1 + ds.length →
    ∃ u, s.follow (exchange t vs) = .next (u.withMoves [])
      ∧ s.Completes t (bs ++ List.replicate ds.length (s.cfg.bus t).fill) vs (ds.zip (vs.drop (bs.length + 1))) u := by
  induction bs with
  | nil =>
    intro s vs h hvs
    obtain ⟨v, vs, rfl⟩ := List.exists_cons_of_length_pos (l := vs) (by omega)
    cases ds with
    | nil =>
      obtain rfl : vs = [] := List.length_eq_zero_iff.mp (by simpa using hvs)
      exact h.last v
    | cons a ds =>
      obtain ⟨u, hc, hu⟩ := h.reply v
      have hrest := hu.completes (vs := vs) (by simpa [Nat.add_comm] using hvs)
      rw [hc.exchanges.kept.cfg] at hrest
      exact hc.completes hrest
  | cons b bs ih =>
    intro s vs h hvs
    obtain ⟨v, vs, rfl⟩ := List.exists_cons_of_length_pos (l := vs) (by omega)
    obtain ⟨u, hc, hu⟩ := h.next v
    have hrest := ih (vs := vs) hu (by simp only [List.length_cons] at hvs; omega)
    rw [hc.exchanges.kept.cfg] at hrest
    exact hc.completes hrest

/-! ## The whole command (42_transport R203) -/

theorem State.xport_enqStarted (t : Bus) (x : Transport) (b : Byte) (s : State) :
    (s.enqStarted t x b).xport t = x := by
  cases t <;> rfl

theorem State.enqStarted_cfg (t : Bus) (x : Transport) (b : Byte) (s : State) : (s.enqStarted t x b).cfg = s.cfg :=
  State.setXport_cfg ..

theorem State.exchanges_enqStarted (t : Bus) (x : Transport) (b : Byte) (s : State) :
    s.Exchanges t [b] [] [] (s.enqStarted t x b) := by
  have hkept : s.KeptByTransport t (s.setXport t x) := s.modXport_kept t fun _ => x
  have hentries : (s.setXport t x).KeptByTransport t (s.enqStarted t x b) :=
    { State.KeptByTransport.refl t (s.setXport t x) with
      trace := by rw [State.setXport_trace]; exact List.prefix_append .. }
  exact .of_kept (hkept.trans hentries) (added := [.wire t b, .result .enq .ok 0#16]) rfl rfl

/-- Software may issue this command on an Idle transport, outside an ISR and unmasked; the command fits its row, and its
destinations are valid. -/
structure State.Admits (t : Bus) (payload : List Byte) (dests : List Addr) (s : State) : Prop where
  inv : s.Inv
  fault : s.fault.any = false
  program : s.program = none
  isr : s.isr = .none
  ie : s.ie = true
  runs : s.softwareRuns
  idle : (s.xport t).phase = .idle
  fits : payload.length + dests.length ≤ (s.cfg.bus t).rowCap
  valid : ∀ a ∈ dests, s.cfg.destOk a = true

/-- The row that the command is written to (42_transport R192). -/
abbrev State.filledRow (t : Bus) (payload : List Byte) (dests : List Addr) (s : State) : Row :=
  ((s.xport t).row (s.xport t).wr).fill payload dests

section

variable {s : State} {t : Bus} {payload : List Byte} {dests : List Addr} {x : Transport} {b : Byte}

theorem State.Admits.take_enq (h : s.Admits t payload dests) :
    s.take (.software (encode (.enq t payload dests))) = exec (.enq t payload dests) s := by
  have hwf : (Instr.enq t payload dests).wf = true := by
    have hk := h.inv.rowCap_le t
    have hl := h.fits
    simp only [Instr.wf, Bool.and_eq_true, decide_eq_true_eq]
    omega
  rw [State.take_software h.fault h.program h.runs, State.issue, decodeOp_encode hwf rfl]

/-- An `ENQ` that has started its row has put it in exchange, alone and with a byte in flight. -/
theorem State.Admits.exchanging (h : s.Admits t payload dests)
    (hstart : s.take (.software (encode (.enq t payload dests))) = .next (s.enqStarted t x b))
    (hinfl : x.infl.isSome = true) (hrows : x.rows = ((s.xport t).append (s.cfg.bus t) payload dests).rows)
    (hrd : x.rd = (s.xport t).rd) :
    (s.enqStarted t x b).Exchanging t ∧ (s.enqStarted t x b).currentRow t = s.filledRow t payload dests := by
  have hring := h.inv.ring t
  obtain ⟨hcount, -, hfree⟩ := hring.idle_ring h.idle
  have hone := (hring.shape.append (h.inv.rowCap_le t) h.fits hfree).2
  have hkept := (s.exchanges_enqStarted t x b).kept
  have hx := s.xport_enqStarted t x b
  refine ⟨⟨h.inv.of_take hstart, (congrArg FaultSet.any hkept.fault).trans h.fault, hkept.isr.trans h.isr,
    hkept.ie.trans h.ie, ?_, ?_⟩, ?_⟩
  · rwa [hx]
  · rw [hx, Transport.count, hrows]
    exact hone.trans (congrArg Nat.succ hcount)
  · rw [State.currentRow, hx, Transport.row, hrows, hrd]
    exact hring.append_row_rd h.idle payload dests

/-- The `ENQ` first, then the rest of its command. -/
theorem State.Admits.completes_of_started {out vs : List Byte} {cells : List (Addr × Byte)}
    (h : s.Admits t payload dests)
    (hstart : s.take (.software (encode (.enq t payload dests))) = .next (s.enqStarted t x b))
    (hrd : x.rd = (s.xport t).rd)
    (hrest : ∃ u, (s.enqStarted t x b).follow (exchange t vs) = .next (u.withMoves [])
      ∧ (s.enqStarted t x b).Completes t out vs cells u) :
    ∃ u, s.follow (.software (encode (.enq t payload dests)) :: exchange t vs) = .next (u.withMoves [])
      ∧ s.Completes t (b :: out) vs cells u := by
  obtain ⟨u, hfollow, hend⟩ := hrest
  exact ⟨u, (State.follow_cons h.inv.config hstart _).trans hfollow,
    hend.after (s.exchanges_enqStarted t x b) (State.setXport_events ..) (by rw [State.xport_enqStarted, hrd])⟩

/-- A command with a payload starts in phase Sending. -/
theorem State.Admits.completes_of_payload {bs vs : List Byte} (h : s.Admits t (b :: bs) dests)
    (hvs : vs.length = bs.length + 1 + dests.length) :
    ∃ u, s.follow (.software (encode (.enq t (b :: bs) dests)) :: exchange t vs) = .next (u.withMoves [])
      ∧ s.Completes t (b :: (bs ++ List.replicate dests.length (s.cfg.bus t).fill)) vs
          (dests.zip (vs.drop (bs.length + 1))) u := by
  obtain ⟨hsend, -, -⟩ := enqOnAnIdleInstanceStartsTheRow t (b :: bs) dests s h.inv h.idle h.fits
  have hstart := h.take_enq.trans (hsend b bs rfl)
  obtain ⟨hex, hrow⟩ := h.exchanging hstart rfl rfl rfl
  obtain ⟨htx, hrx⟩ := ((s.xport t).row (s.xport t).wr).fill_lengths (h.inv.rowCap_le t) h.fits
  have hdata : b :: bs <+: (s.filledRow t (b :: bs) dests).data := List.prefix_append ..
  have hsends : State.Sends t bs dests _ :=
    { toExchanging := hex
      phase := by rw [State.xport_enqStarted]
      txLen := by rw [hrow, htx, State.xport_enqStarted]; exact Nat.add_comm ..
      payload := by rw [hrow, State.xport_enqStarted]; exact (getD_of_cons_prefix_drop (j := 0) 0#8 hdata).2
      rxLen := by rw [hrow, hrx]
      dests := by rw [hrow]; exact List.prefix_append ..
      valid := by rw [State.enqStarted_cfg]; exact h.valid }
  have hrest := hsends.completes hvs
  rw [State.enqStarted_cfg] at hrest
  exact h.completes_of_started hstart rfl hrest

/-- A command with a reply only starts in phase Receiving. -/
theorem State.Admits.completes_of_reply {a : Addr} {ds : List Addr} {vs : List Byte} (h : s.Admits t [] (a :: ds))
    (hvs : vs.length = ds.length + 1) :
    ∃ u, s.follow (.software (encode (.enq t [] (a :: ds))) :: exchange t vs) = .next (u.withMoves [])
      ∧ s.Completes t (List.replicate (ds.length + 1) (s.cfg.bus t).fill) vs ((a :: ds).zip vs) u := by
  obtain ⟨-, hrecv, -⟩ := enqOnAnIdleInstanceStartsTheRow t [] (a :: ds) s h.inv h.idle h.fits
  have hstart := h.take_enq.trans (hrecv rfl (List.cons_ne_nil a ds))
  obtain ⟨hex, hrow⟩ := h.exchanging hstart rfl rfl rfl
  obtain ⟨-, hrx⟩ := ((s.xport t).row (s.xport t).wr).fill_lengths (h.inv.rowCap_le t) h.fits
  have hidx := ((h.inv.ring t).idle_cursors h.idle).2
  have hreceives : State.Receives t (a :: ds) _ :=
    { toExchanging := hex
      phase := by rw [State.xport_enqStarted]
      rxLen := by rw [hrow, hrx, State.xport_enqStarted, hidx, Nat.zero_add]
      dests := by rw [hrow, State.xport_enqStarted, hidx]; exact List.prefix_append ..
      valid := by rw [State.enqStarted_cfg]; exact h.valid }
  have hrest := hreceives.completes hvs
  rw [State.enqStarted_cfg] at hrest
  exact h.completes_of_started hstart rfl hrest

/-- The command goes out byte by byte, its reply comes back, and it ends. -/
theorem State.Admits.completes {vs : List Byte} (h : s.Admits t payload dests)
    (hne : 1 ≤ payload.length + dests.length) (hvs : vs.length = payload.length + dests.length) :
    ∃ u, s.follow (.software (encode (.enq t payload dests)) :: exchange t vs) = .next (u.withMoves [])
      ∧ s.Completes t (payload ++ List.replicate dests.length (s.cfg.bus t).fill) vs
          (dests.zip (vs.drop payload.length)) u := by
  cases payload with
  | cons b bs => exact h.completes_of_payload hvs
  | nil =>
    cases dests with
    | cons a ds => exact h.completes_of_reply (hvs.trans (Nat.zero_add _))
    | nil => exact absurd hne (by decide)

end

/-- Settles O42. -/
theorem roundTripOfACommand : Obligations.RoundTripOfACommand := by
  intro s t payload dests vs h hf hprog hi hie hsw hp hne hl hvalid hvs stored
  have hadmits : s.Admits t payload dests :=
    ⟨h, (FaultSet.any_eq_false_iff _).mpr hf, hprog, hi, hie, hsw, hp, hl, hvalid⟩
  obtain ⟨u, hfollow, hend⟩ := hadmits.completes hne hvs
  obtain ⟨added, htrace, hout, hback, hcells⟩ := hend.trace
  have hdrop : u.trace.drop s.trace.length = added := by rw [htrace, List.drop_left]
  have hx : (u.withMoves []).xport t = u.xport t := by cases t <;> rfl
  have hempty : (u.xport t).commands = [] :=
    List.length_eq_zero_iff.mp ((Transport.commands_length _).trans hend.empty)
  refine ⟨_, hfollow, ?_⟩
  rw [hx, hdrop]
  exact ⟨hout, hback, hcells, hend.dm, hend.posted, hend.atRest, hempty, hend.rd, hend.kept.isr.trans hi,
    hend.kept.ie.trans hie, hend.kept.main, hend.kept.slots, hend.kept.met⟩

end Sys2Proof.Machine
end

section
/-! The system operations (43_system): each context of `RET`, the saving and the restoring of `IE`, the metrics, and an
operation that does not decode. -/

namespace Sys2Proof.Machine

/-! ## `RET` in each context (43_system R231-R234, R239) -/

theorem execRet_of_callback {s : State} {i : Nat} (h : s.isr = .callback i) :
    execRet s = .next { s with isr := .tick (i + 1) } := by
  simp only [execRet, h]

theorem execRet_of_init {s : State} (hi : s.isr = .none) (hm : s.main = .init) :
    execRet s = .next { s with ie := true, main := .scan 0 } := by
  simp only [execRet, hi, hm]

/-- A handler may return only with interrupts enabled (43_system R233). -/
theorem execRet_of_handler {s : State} {b : Fin 32} (hi : s.isr = .none) (hm : s.main = .handler b) :
    execRet s = if s.ie then .next { s with main := .scan (b + 1) } else .next (s.raiseFault (.leftMasked b)) := by
  simp only [execRet, hi, hm]

theorem execRet_of_tick {s : State} {i : Nat} (h : s.isr = .tick i) : execRet s = .refused .noSoftwareContext := by
  simp only [execRet, h]

theorem execRet_of_scan {s : State} {b : Fin 32} (hi : s.isr = .none) (hm : s.main = .scan b) :
    execRet s = .refused .noSoftwareContext := by
  simp only [execRet, hi, hm]

/-- Settles O46, by the context that `RET` leaves. -/
theorem retLeavesItsContext : Obligations.RetLeavesItsContext := by
  intro s
  refine ⟨fun i hi => execRet_of_callback hi, fun hi hm => execRet_of_init hi hm, fun b hi hm hie => ?_,
    fun b hi hm hie => ?_⟩
  · exact ⟨b + 1, Fin.val_add b 1, (execRet_of_handler hi hm).trans (if_pos hie)⟩
  · exact (execRet_of_handler hi hm).trans (if_neg (Bool.eq_false_iff.mp hie))

/-- Settles O47, by what is missing for a step: a routine, or a byte in flight. -/
theorem instructionsWithoutAStepAreRefused : Obligations.InstructionsWithoutAStepAreRefused := by
  constructor
  · rintro s (⟨i, hi⟩ | ⟨hi, b, hm⟩)
    · exact execRet_of_tick hi
    · exact execRet_of_scan hi hm
  · intro t v s hnone
    rw [exec, execBytedone, hnone]
    rfl

/-! ## `CSENTER`, `CSEXIT` and `RDMETRIC` (43_system R235-R237) -/

/-- Settles O48: the meaning of `CSENTER`, its emitted result written out. -/
theorem csenterSavesAndMasks : Obligations.CsenterSavesAndMasks := fun _ => rfl

/-- Settles O49, by whether `CSEXIT 1` is issued in ISR context. -/
theorem csexitRestoresTheEnable : Obligations.CsexitRestoresTheEnable := by
  intro v s
  exact ⟨fun h => if_pos h, fun h => if_neg h⟩

/-- Settles O50: each of the four selectors reads its metric. -/
theorem rdmetricReadsAMetric : Obligations.RdmetricReadsAMetric := fun _ => ⟨rfl, rfl, rfl, rfl⟩

/-! ## An operation that does not decode (43_system R238) -/

theorem State.advance_withMoves (s : State) (ms : List Move) : (s.withMoves ms).advance = s.advance.withMoves ms := by
  simp only [State.advance]
  split <;> rfl

/-- Settles O51, by whether a program fixes what software does. -/
theorem illegalOperationOnlyReports : Obligations.IllegalOperationOnlyReports := by
  intro s p rest e hruns hd
  have hready : (s.withMoves rest).ready .sw = true := State.ready_of_softwareRuns hruns
  constructor
  · intro hw hp
    exact step_of_took hw (.illegal (s.withMoves rest) hp hready hd)
  · intro _ hw _ hn
    have hstep := step_of_took hw (.routineIllegal (s.withMoves rest) hready hn hd)
    rw [hstep, State.advance_withMoves, ← s.advance_trace]
    rfl

end Sys2Proof.Machine
end

section
/-! The faults of a step (60_exceptions R254-R256): what a state has recorded of them, and that a move adds at most
one. -/

namespace Sys2Proof.Machine

/-! ## The record of faults -/

/-- The entry is a `Fault` (10_state R58). -/
def TraceEntry.isFault : TraceEntry → Bool
  | .fault _ => true
  | _ => false

/-- What a state has recorded of faults: the set `FAULT` and the `Fault` entries of its trace (60_exceptions R255). -/
abbrev FaultRecord := FaultSet × List TraceEntry

def State.faultRecord (s : State) : FaultRecord := (s.fault, s.trace.filter TraceEntry.isFault)

/-- The record with one fault more. -/
def FaultRecord.add (r : FaultRecord) (f : FaultInfo) : FaultRecord := (r.1.add f, r.2 ++ [.fault f])

/-- The later record is the same, or it has one fault more. -/
def FaultRecord.AtMostOneMore (r r' : FaultRecord) : Prop := r' = r ∨ ∃ f, r' = r.add f

theorem State.faultRecord_of_eq {s u : State} (hf : u.fault = s.fault) (ht : u.trace = s.trace) :
    u.faultRecord = s.faultRecord := by
  rw [State.faultRecord, hf, ht, State.faultRecord]

theorem State.faultRecord_emit (s : State) {e : TraceEntry} (h : e.isFault = false) :
    (s.emit e).faultRecord = s.faultRecord := by
  simp [State.faultRecord, h]

@[simp] theorem State.faultRecord_raiseFault (s : State) (f : FaultInfo) :
    (s.raiseFault f).faultRecord = s.faultRecord.add f := by
  simp [State.faultRecord, FaultRecord.add, TraceEntry.isFault]

@[simp] theorem State.faultRecord_finish (s : State) (op : OpName) (st : Status) (v : Half) :
    (s.finish op st v).faultRecord = s.faultRecord :=
  s.faultRecord_emit rfl

@[simp] theorem State.faultRecord_modXport (s : State) (t : Bus) (f : Transport → Transport) :
    (s.modXport t f).faultRecord = s.faultRecord :=
  State.faultRecord_of_eq (s.modXport_fault t f) (s.modXport_trace t f)

@[simp] theorem State.faultRecord_load (s : State) (t : Bus) (x : Byte) : (s.load t x).faultRecord = s.faultRecord :=
  (State.faultRecord_emit _ rfl).trans (s.faultRecord_modXport t _)

@[simp] theorem State.faultRecord_advance (s : State) : s.advance.faultRecord = s.faultRecord :=
  State.faultRecord_of_eq s.advance_fault s.advance_trace

@[simp] theorem State.faultRecord_enterInterrupt (s : State) (src : IrqSource) :
    (s.enterInterrupt src).faultRecord = s.faultRecord :=
  State.faultRecord_of_eq (s.enterInterrupt_fault src) (s.enterInterrupt_trace src)

/-- `Wire` entries record no fault. -/
theorem State.OnlyWires.faultRecord {s u : State} (h : s.OnlyWires u) (hf : u.fault = s.fault) :
    u.faultRecord = s.faultRecord := by
  obtain ⟨added, htrace, hwire⟩ := h
  have hnone : added.filter TraceEntry.isFault = [] := List.filter_eq_nil_iff.mpr fun e he => by
    obtain ⟨t, x, rfl⟩ := hwire e he
    exact Bool.false_ne_true
  rw [State.faultRecord, hf, htrace, List.filter_append, hnone, List.append_nil, State.faultRecord]

@[simp] theorem State.faultRecord_nextRow (s : State) (t : Bus) : (s.nextRow t).faultRecord = s.faultRecord :=
  (State.OnlyWires.of_left_trace_eq (s.completeRow_trace t) (State.startRow_onlyWires t _)).faultRecord
    (s.nextRow_kept t).fault

/-! ## The operations -/

/-- An operation that ends with a result records no fault. -/
theorem State.Reports.faultRecord {s s' : State} {x : Answer} {op : OpName} {st : Status} {v : Half}
    (h : s.Reports x op st v) (hx : x = .next s') (hf : s'.fault = s.fault) : s'.faultRecord = s.faultRecord := by
  obtain ⟨u, hu, hwires⟩ := h
  cases hx.symm.trans hu
  exact (u.faultRecord_finish op st v).trans (hwires.faultRecord hf)

/-- Only `POST` and `RET` raise a fault, and then they do nothing else (41_dispatcher R171, 43_system R233). -/
theorem exec_faultRecord {i : Instr} {s s' : State} (h : exec i s = .next s') :
    s'.faultRecord = s.faultRecord ∨ ∃ f, s' = s.raiseFault f := by
  obtain ⟨-, -, -, hframe⟩ := instructionsWriteOnlyWhatTheirRulesList i s s' h
  cases i with
  | register id cb =>
    obtain ⟨st, -, hr⟩ := execRegister_reports id cb s
    exact .inl (hr.faultRecord h (congrArg State.fault hframe.1 :))
  | start id dur =>
    obtain ⟨st, -, hr⟩ := execStart_reports id dur s
    exact .inl (hr.faultRecord h (congrArg State.fault hframe.1 :))
  | stop id =>
    obtain ⟨st, -, hr⟩ := execStop_reports id s
    exact .inl (hr.faultRecord h (congrArg State.fault hframe.1 :))
  | elapsed id =>
    obtain ⟨st, -, v, -, hr⟩ := execElapsed_reports id s
    exact .inl (hr.faultRecord h (congrArg State.fault hframe :))
  | post mask =>
    simp only [exec, execPost] at h
    split at h <;> cases h
    · exact .inr ⟨_, rfl⟩
    · exact .inl (State.faultRecord_finish ..)
  | enq t payload dests =>
    obtain ⟨st, -, hr⟩ := execEnq_reports t payload dests s
    exact .inl (hr.faultRecord h (execEnq_kept h).fault)
  | ret =>
    simp only [exec, execRet] at h
    split at h
    · cases h; exact .inl rfl
    · cases h; exact .inl rfl
    · split at h <;> cases h
      · exact .inl rfl
      · exact .inr ⟨_, rfl⟩
    · cases h
    · cases h
  | csenter => cases h; exact .inl (State.faultRecord_finish ..)
  | csexit v =>
    obtain ⟨st, -, hr⟩ := execCsexit_reports v s
    exact .inl (hr.faultRecord h (congrArg State.fault hframe :))
  | rdmetric sel => cases h; exact .inl (State.faultRecord_finish ..)
  | tick => cases h; exact .inl rfl
  | bytedone t v =>
    simp only [exec, execBytedone] at h
    split at h
    · cases h; exact .inl ((State.faultRecord_emit _ rfl).trans (State.faultRecord_modXport ..))
    · cases h

theorem exec_atMostOneFault {i : Instr} {s s' : State} (h : exec i s = .next s') :
    s.faultRecord.AtMostOneMore s'.faultRecord :=
  (exec_faultRecord h).imp_right fun ⟨f, hs'⟩ => ⟨f, hs' ▸ s.faultRecord_raiseFault f⟩

/-! ## The byte-complete ISR -/

theorem State.bcSending_faultRecord (t : Bus) (s : State) : (s.bcSending t).faultRecord = s.faultRecord := by
  unfold State.bcSending
  simp only
  split
  · simp
  · split <;> simp

/-- The ISR body records no fault unless it ends at the raise (42_transport R200-R202). -/
theorem State.bcBody_faultRecord {t : Bus} {s u : State} (h : s.bcBody t = .ok u) : u.faultRecord = s.faultRecord := by
  cases hp : (s.xport t).phase with
  | sending => rw [State.bcBody_of_sending hp] at h; cases h; exact s.bcSending_faultRecord t
  | receiving =>
    rw [State.bcBody_of_receiving hp] at h
    cases hd : s.cfg.destOk (s.destination t) with
    | false => rw [State.bcReceiving_of_invalid hd] at h; cases h
    | true =>
      have hstored : (s.stored (s.destination t) (s.xport t).rxData).faultRecord = s.faultRecord :=
        s.faultRecord_emit (e := .mem _ _) rfl
      rw [State.bcReceiving_of_valid hd] at h
      cases h
      split <;> simpa using hstored
  | idle => rw [State.bcBody_of_idle hp] at h; cases h; rfl

/-- The byte-complete ISR raises `BAD_DEST` or nothing (42_transport R201, 60_exceptions R254). -/
theorem State.byteComplete_atMostOneFault {s : State} {t : Bus} (hi : s.isr = .none) (hie : s.ie = true) :
    s.faultRecord.AtMostOneMore (s.byteComplete t).faultRecord := by
  rcases State.byteComplete_cases t hi hie with ⟨a, hx⟩ | ⟨-, s', hbody, hx, -, -⟩ <;> rw [hx]
  · exact .inr ⟨.badDest a, by simp⟩
  · exact .inl ((State.bcBody_faultRecord hbody).trans (s.faultRecord_enterInterrupt (.bc t)))

/-! ## The step -/

theorem State.scanBit_faultRecord (s : State) (b : Fin 32) : (s.scanBit b).faultRecord = s.faultRecord := by
  unfold State.scanBit
  split
  · exact (s.clearEvent b).faultRecord_emit rfl
  · rfl

theorem State.tickScan_faultRecord (s : State) (i : Nat) : (s.tickScan i).faultRecord = s.faultRecord := by
  unfold State.tickScan State.tickSlot
  simp only
  split
  · split
    · split
      · exact (s.setSlot i (s.slot i).counted).faultRecord_emit rfl
      · rfl
    · rfl
  · rfl

theorem State.Took.atMostOneFault {s s' : State} {m : Move} (h : s.Took m s') (hr : m.isReset = false) :
    s.faultRecord.AtMostOneMore s'.faultRecord := by
  cases h with
  | operation s hp hready hd hx => exact exec_atMostOneFault hx
  | illegal s hp hready hd => exact .inl (State.faultRecord_finish ..)
  | routine s hready hn hd hx => exact s.faultRecord_advance ▸ exec_atMostOneFault hx
  | routineIllegal s hready hn hd => exact .inl ((State.faultRecord_finish ..).trans s.faultRecord_advance)
  | scan s b hi hm => exact .inl (s.scanBit_faultRecord b)
  | tickEntry s hi hie hp => exact .inl (s.faultRecord_enterInterrupt .tick)
  | byteComplete s t hi hie hp => exact State.byteComplete_atMostOneFault hi hie
  | tickScan s i hi => exact .inl (s.tickScan_faultRecord i)
  | tick s hd => exact .inl rfl
  | bytedone s t v hd hi => exact .inl ((State.faultRecord_emit _ rfl).trans (State.faultRecord_modXport ..))
  | externalWrite s a v => exact .inl rfl
  | externalReset s launch => cases hr

/-- Settles O15: the trace is only appended to, so the `Fault` entries that a move adds to its record are those of the
appended part. -/
theorem oneStepRaisesAtMostOneFault : Obligations.OneStepRaisesAtMostOneFault := by
  intro s s' hs hreset
  obtain ⟨added, htrace, -⟩ := traceIsAppendedAndNeverRead s s' hs hreset
  obtain ⟨-, m, rest, hm, htake⟩ := step_inv hs
  have hr : m.isReset = false := (Move.isReset_eq_false_iff m).mpr (by rintro launch rfl; exact hreset _ _ hm)
  have hrecord : s.faultRecord.AtMostOneMore s'.faultRecord := (State.took_of_take htake).2.atMostOneFault hr
  have hadded : s'.faultRecord = (s'.fault, s.trace.filter TraceEntry.isFault ++ added.filter TraceEntry.isFault) := by
    rw [State.faultRecord, htrace, List.filter_append]
  rw [htrace, List.drop_left]
  rcases hrecord with hsame | ⟨f, hmore⟩
  · obtain ⟨hfault, hentries⟩ := Prod.mk.inj (hadded.symm.trans hsame)
    have hnone := List.filter_eq_nil_iff.mp (List.append_right_eq_self.mp hentries)
    exact .inl ⟨hfault, fun f hf => hnone _ hf rfl⟩
  · obtain ⟨hfault, hentries⟩ := Prod.mk.inj (hadded.symm.trans hmore)
    exact .inr ⟨f, hfault, List.append_cancel_left hentries⟩

end Sys2Proof.Machine
end

section
/-! Who writes a metric (60_exceptions R253, 10_state R45): the refusals of `REGISTER` and `ENQ`, and nothing else. -/

namespace Sys2Proof.Machine

/-- The operation whose refusals the metric counts (10_state R45). -/
def Metric.Counts : Metric → Instr → Prop
  | .timerFull, i => ∃ id cb, i = .register id cb
  | .config, i => ∃ id cb, i = .register id cb
  | .enqFullA, i => ∃ p d, i = .enq .a p d
  | .enqFullB, i => ∃ p d, i = .enq .b p d

/-- The result of the refusal that the metric counts (60_exceptions R253). -/
def Metric.refusal : Metric → TraceEntry
  | .timerFull => .result .register .resourceExhausted 0#16
  | .config => .result .register .configurationError 0#16
  | .enqFullA => .result .enq .resourceExhausted 0#16
  | .enqFullB => .result .enq .resourceExhausted 0#16

theorem satInc_of_ne {v : Half} (h : satInc v ≠ v) : v ≠ 0xFFFF#16 ∧ satInc v = v + 1#16 := by
  by_cases hv : v = 0xFFFF#16
  · exact absurd (by rw [satInc, if_pos hv, hv]) h
  · exact ⟨hv, if_neg hv⟩

theorem Metrics.get_bump_same (m : Metrics) (k : Metric) : (m.bump k).get k = satInc (m.get k) := by
  cases k <;> rfl

/-- Counting changes no metric but its own. -/
theorem Metrics.eq_of_get_bump_ne {m : Metrics} {j k : Metric} (h : (m.bump j).get k ≠ m.get k) : k = j :=
  not_imp_comm.mp m.get_bump_other h

/-- The state with one refusal counted and reported. -/
abbrev State.refuse (k : Metric) (s : State) : State := (s.count k).emit k.refusal

/-- An operation that changes a metric is refused for the reason that the metric counts, and does nothing else (40_timer
R142, 42_transport R192). -/
theorem exec_changes_met {i : Instr} {s s' : State} {k : Metric} (h : exec i s = .next s')
    (hne : s'.met.get k ≠ s.met.get k) : k.Counts i ∧ s' = s.refuse k := by
  obtain ⟨-, -, -, hframe⟩ := instructionsWriteOnlyWhatTheirRulesList i s s' h
  have hkept : s'.met ≠ s.met := fun he => hne (by rw [he])
  cases i with
  | register id cb =>
    simp only [exec, execRegister] at h
    split at h
    · cases h
      obtain rfl := Metrics.eq_of_get_bump_ne hne
      exact ⟨⟨id, cb, rfl⟩, rfl⟩
    · split at h <;> cases h
      · obtain rfl := Metrics.eq_of_get_bump_ne hne
        exact ⟨⟨id, cb, rfl⟩, rfl⟩
      · exact absurd rfl hkept
  | enq t payload dests =>
    simp only [exec, execEnq] at h
    split at h
    · cases h; exact absurd rfl hkept
    · split at h
      · cases h
        obtain rfl := Metrics.eq_of_get_bump_ne hne
        cases t <;> exact ⟨⟨payload, dests, rfl⟩, rfl⟩
      · have happ := s.appendRow_met t payload dests
        cases h
        split at hkept
        · exact absurd ((State.startRow_kept t _).met.trans happ) hkept
        · exact absurd happ hkept
  | start id dur => exact absurd (congrArg State.met hframe.1 :) hkept
  | stop id => exact absurd (congrArg State.met hframe.1 :) hkept
  | elapsed id => exact absurd (congrArg State.met hframe :) hkept
  | post mask => exact absurd (congrArg State.met hframe.1 :) hkept
  | ret =>
    simp only [exec, execRet] at h
    split at h
    · cases h; exact absurd rfl hkept
    · cases h; exact absurd rfl hkept
    · split at h <;> cases h <;> exact absurd rfl hkept
    · cases h
    · cases h
  | csenter => exact absurd (congrArg State.met hframe :) hkept
  | csexit v => exact absurd (congrArg State.met hframe :) hkept
  | rdmetric sel => exact absurd (congrArg State.met hframe :) hkept
  | tick => exact absurd (congrArg State.met hframe :) hkept
  | bytedone t v => exact absurd ((congrArg State.met hframe :).trans (State.setXport_met ..)) hkept

theorem State.byteComplete_met {s : State} {t : Bus} (hi : s.isr = .none) (hie : s.ie = true) :
    (s.byteComplete t).met = s.met := by
  rcases State.byteComplete_cases t hi hie with ⟨a, hx⟩ | ⟨u, s', -, hx, rfl | ⟨a, v, rfl⟩, hk⟩ <;> rw [hx]
  · exact State.enterInterrupt_met ..
  · exact hk.met
  · exact hk.met

theorem State.scanBit_met (s : State) (b : Fin 32) : (s.scanBit b).met = s.met := by
  unfold State.scanBit
  split <;> rfl

theorem State.tickScan_met (s : State) (i : Nat) : (s.tickScan i).met = s.met := by
  unfold State.tickScan State.tickSlot
  simp only
  repeat' split
  all_goals rfl

/-- What a move that changes a metric is: the issue of an operation that is refused for the metric's reason. -/
theorem State.Took.changes_met {s s' : State} {m : Move} {k : Metric} (h : s.Took m s') (hr : m.isReset = false)
    (hne : s'.met.get k ≠ s.met.get k) :
    ∃ i, s.issues m = some i ∧ k.Counts i ∧ s'.met = s.met.bump k ∧ s'.trace = s.trace ++ [k.refusal] := by
  have hkept : s'.met ≠ s.met := fun he => hne (by rw [he])
  cases h with
  | operation s hp hready hd hx =>
    obtain ⟨hcounts, rfl⟩ := exec_changes_met hx hne
    exact ⟨_, State.issues_software hd, hcounts, rfl, rfl⟩
  | routine s hready hn hd hx =>
    rw [← s.advance_met] at hne
    obtain ⟨hcounts, rfl⟩ := exec_changes_met hx hne
    exact ⟨_, State.issues_routine hn hd, hcounts, by simp, by simp⟩
  | illegal s hp hready hd => exact absurd rfl hkept
  | routineIllegal s hready hn hd => exact absurd s.advance_met hkept
  | scan s b hi hm => exact absurd (s.scanBit_met b) hkept
  | tickEntry s hi hie hp => exact absurd rfl hkept
  | byteComplete s t hi hie hp => exact absurd (State.byteComplete_met hi hie) hkept
  | tickScan s i hi => exact absurd (s.tickScan_met i) hkept
  | tick s hd => exact absurd rfl hkept
  | bytedone s t v hd hi => exact absurd (State.modXport_met ..) hkept
  | externalWrite s a v => exact absurd rfl hkept
  | externalReset s launch => cases hr

/-- Settles O53: the refusal that changes the metric, written out for each of the four. -/
theorem metricsCountRefusals : Obligations.MetricsCountRefusals := by
  intro s s' m rest k hmoves hr hs hne
  obtain ⟨hc, -⟩ := step_inv hs
  rw [step_eq hc hmoves] at hs
  obtain ⟨i, hissues, hcounts, hmet, htrace⟩ := (State.took_of_take hs).2.changes_met hr hne
  rw [s.issues_withMoves rest] at hissues
  have hinc : s'.met.get k = satInc (s.met.get k) := by rw [hmet]; exact Metrics.get_bump_same s.met k
  obtain ⟨hroom, hplus⟩ := satInc_of_ne (hinc ▸ hne)
  refine ⟨hroom, hinc.trans hplus, ?_⟩
  rw [hissues]
  cases k with
  | timerFull => obtain ⟨id, cb, rfl⟩ := hcounts; exact ⟨⟨id, cb, rfl⟩, htrace⟩
  | config => obtain ⟨id, cb, rfl⟩ := hcounts; exact ⟨⟨id, cb, rfl⟩, htrace⟩
  | enqFullA => obtain ⟨p, d, rfl⟩ := hcounts; exact ⟨⟨p, d, rfl⟩, htrace⟩
  | enqFullB => obtain ⟨p, d, rfl⟩ := hcounts; exact ⟨⟨p, d, rfl⟩, htrace⟩

end Sys2Proof.Machine
end

section
/-! The interrupt contexts (60_exceptions R258, R262, R264): the tick source, entry to the tick ISR, and what every move
keeps while an ISR runs. -/

namespace Sys2Proof.Machine

/-! ## The tick interrupt -/

/-- Settles O55. -/
theorem tickSetsItsPendingFlag : Obligations.TickSetsItsPendingFlag := fun s =>
  ⟨rfl, fun h => by rw [exec, execTick, ← h]⟩

/-- Settles O56. -/
theorem tickInterruptEntry : Obligations.TickInterruptEntry := fun s rest hw hi hie hp =>
  step_of_took hw (.tickEntry (s.withMoves rest) hi hie hp)

/-! ## The pending flags -/

/-- Every flag that is pending in s is pending in s' (60_exceptions R257). -/
def State.KeepsPending (s s' : State) : Prop := ∀ src, s.pending src = true → s'.pending src = true

theorem State.KeepsPending.of_eq {s s' : State} (htick : s'.tickPend = s.tickPend)
    (hx : ∀ t, s'.xport t = s.xport t) : s.KeepsPending s'
  | .tick, h => htick.trans h
  | .bc t, h => (congrArg Transport.bcPend (hx t)).trans h

/-- A change of one transport that keeps its pending flag, whatever it does to the metrics. -/
theorem State.KeepsPending.of_kept {t : Bus} {s s' : State} {m : Metrics}
    (k : State.KeptByTransport t { s with met := m } s')
    (hb : (s.xport t).bcPend = true → (s'.xport t).bcPend = true) : s.KeepsPending s'
  | .tick, h => k.tickPend.trans h
  | .bc u, h => by
    by_cases hu : u = t
    · exact hu ▸ hb (hu ▸ h)
    · exact (congrArg Transport.bcPend (k.other u hu)).trans h

/-! ## While an ISR runs -/

/-- What a move that stays in an ISR keeps (60_exceptions R264). -/
structure State.KeptInIsr (s s' : State) : Prop where
  main : s'.main = s.main
  pending : s.KeepsPending s'
  isr : s'.isr ≠ .none

/-- The move starts from the state with the routine's position moved on. -/
theorem State.KeptInIsr.of_advance {s s' : State} (h : s.advance.KeptInIsr s') : s.KeptInIsr s' where
  main := h.main.trans s.advance_main
  pending src hp := h.pending src (State.KeepsPending.of_eq s.advance_tickPend s.xport_advance src hp)
  isr := h.isr

/-- What an interrupt entry and a return write: `TICK_PEND` and the two contexts. -/
def State.contexts (s : State) : Bool × MainCtx × IsrCtx := (s.tickPend, s.main, s.isr)

/-- Of the operations only `RET` changes a context (43_system R231), and none `TICK_PEND`. -/
theorem exec_contexts {i : Instr} {s s' : State} (h : exec i s = .next s') (hop : i.isEvent = false)
    (hret : i ≠ .ret) : s'.contexts = s.contexts := by
  obtain ⟨-, -, -, hframe⟩ := instructionsWriteOnlyWhatTheirRulesList i s s' h
  cases i with
  | register id cb => exact (congrArg State.contexts hframe.1 :)
  | start id dur => exact (congrArg State.contexts hframe.1 :)
  | stop id => exact (congrArg State.contexts hframe.1 :)
  | elapsed id => exact (congrArg State.contexts hframe :)
  | post mask => exact (congrArg State.contexts hframe.1 :)
  | enq t payload dests =>
    have k := execEnq_kept h
    simp only [State.contexts, k.tickPend, k.main, k.isr]
  | ret => exact absurd rfl hret
  | csenter => exact (congrArg State.contexts hframe :)
  | csexit v => exact (congrArg State.contexts hframe :)
  | rdmetric sel => exact (congrArg State.contexts hframe :)
  | tick => cases hop
  | bytedone t v => cases hop

/-- An operation of a callback: `RET` goes back to the tick ISR, no other leaves the callback (43_system R234). -/
theorem exec_keptInIsr {i : Instr} {s s' : State} {k : Nat} (hi : s.isr = .callback k) (hop : i.isEvent = false)
    (h : exec i s = .next s') : s.KeptInIsr s' := by
  by_cases hret : i = .ret
  · subst hret
    cases (execRet_of_callback hi).symm.trans h
    exact ⟨rfl, fun _ hp => hp, IsrCtx.noConfusion⟩
  · obtain ⟨htick, hmain, hisr⟩ : s'.tickPend = s.tickPend ∧ s'.main = s.main ∧ s'.isr = s.isr := by
      simpa [State.contexts] using exec_contexts h hop hret
    refine ⟨hmain, ?_, by simp [hisr, hi]⟩
    by_cases henq : ∃ t p d, i = .enq t p d
    · obtain ⟨t, p, d, rfl⟩ := henq
      exact .of_kept (execEnq_kept h) fun hb => (execEnq_keptByEnq h).1.bcPend.trans hb
    · exact .of_eq htick fun t => (exec_xport h hop t).resolve_right fun hx => henq ⟨t, hx⟩

/-- An operation that does not decode only reports (43_system R238). -/
theorem State.illegal_keptInIsr {s : State} (hn : s.isr ≠ .none) : s.KeptInIsr s.illegal :=
  ⟨rfl, .of_eq rfl fun t => s.xport_finish .illegal .illegalOp 0#16 t, hn⟩

/-- The slot step stays in the ISR, in the next slot or in a callback (40_timer R147, R148). -/
theorem State.tickSlot_keptInIsr (s : State) (i : Nat) : s.KeptInIsr (s.tickSlot i) := by
  unfold State.tickSlot
  simp only
  repeat' split
  all_goals exact ⟨rfl, .of_eq rfl fun t => by cases t <;> rfl, IsrCtx.noConfusion⟩

/-- The peripheral's completion sets its pending flag and clears none (42_transport R198). -/
theorem State.byteDone_keptInIsr {s : State} (hn : s.isr ≠ .none) (t : Bus) (v : Byte) :
    s.KeptInIsr (s.byteDone t v) := by
  have k : s.KeptByTransport t (s.byteDone t v) := (State.modXport_kept t s _).trans (State.emit_kept t _ _)
  refine ⟨k.main, .of_kept (m := s.met) k fun _ => ?_, k.isr ▸ hn⟩
  rw [State.xport_emit, State.xport_modXport_same]

/-- In an ISR software runs only as a callback (10_state R52). -/
theorem State.exists_callback_of_ready {s : State} (h : s.ready .sw = true) (hn : s.isr ≠ .none) :
    ∃ k, s.isr = .callback k :=
  (s.ready_sw_iff.mp h).resolve_right fun ⟨hi, _⟩ => hn hi

/-- A move taken in an ISR keeps what belongs to it, or it is the final step of the tick ISR (40_timer R149). -/
theorem State.Took.inIsr {s s' : State} {m : Move} (h : s.Took m s') (hr : m.isReset = false) (hn : s.isr ≠ .none) :
    s.KeptInIsr s' ∨ m = .tickScan ∧ s' = s.tickFinal ∧ ∃ i, s.isr = .tick i ∧ s.cfg.nTimers ≤ i := by
  cases h with
  | operation s hp hready hd hx =>
    obtain ⟨k, hk⟩ := State.exists_callback_of_ready hready hn
    exact .inl (exec_keptInIsr hk (decodeOp_not_event hd) hx)
  | illegal s hp hready hd => exact .inl (State.illegal_keptInIsr hn)
  | routine s hready hp hd hx =>
    obtain ⟨k, hk⟩ := State.exists_callback_of_ready hready hn
    exact .inl (exec_keptInIsr (s.advance_isr.trans hk) (decodeOp_not_event hd) hx).of_advance
  | routineIllegal s hready hp hd =>
    exact .inl (State.illegal_keptInIsr (s.advance_isr ▸ hn)).of_advance
  | scan s b hi hm => exact absurd hi hn
  | tickEntry s hi hie hp => exact absurd hi hn
  | byteComplete s t hi hie hp => exact absurd hi hn
  | tickScan s i hi =>
    by_cases hlt : i < s.cfg.nTimers
    · rw [State.tickScan, if_pos hlt]
      exact .inl (s.tickSlot_keptInIsr i)
    · exact .inr ⟨rfl, if_neg hlt, i, hi, Nat.le_of_not_lt hlt⟩
  | tick s hd => exact .inl ⟨rfl, fun | .tick, _ => rfl | .bc t, hp => by cases t <;> exact hp, hn⟩
  | bytedone s t v hd hi => exact .inl (State.byteDone_keptInIsr hn t v)
  | externalWrite s a v => exact .inl ⟨rfl, .of_eq rfl fun t => by cases t <;> rfl, hn⟩
  | externalReset s launch => cases hr

/-- Settles O58: the invariant masks interrupts in the ISR that a move stays in, and puts its final step at
`Tick(N_TIMERS)`. -/
theorem interruptContextStaysMasked : Obligations.InterruptContextStaysMasked := by
  intro s s' m rest h hn hmoves hr hs
  have hinv : s'.Inv := everyStepKeepsTheInvariant s s' h hs
  rw [step_eq h.config hmoves] at hs
  have hpend : s.KeepsPending { s with moves := rest } := .of_eq rfl fun t => by cases t <;> rfl
  rcases (State.took_of_take hs).2.inIsr hr hn with k | ⟨rfl, rfl, i, hi, hle⟩
  · exact ⟨k.main, fun src hp => k.pending src (hpend src hp), hinv.masked, fun hnone => absurd hnone k.isr⟩
  · obtain ⟨-, htick, -⟩ := h.context
    have hlast : s.isr = .tick s.cfg.nTimers := Nat.le_antisymm (htick i hi) hle ▸ hi
    exact ⟨rfl, fun src hp => hpend src hp, hinv.masked, fun _ => ⟨rfl, hlast, rfl⟩⟩

end Sys2Proof.Machine
end

section
/-! Reset from outside, what a program makes software do, and the quiescent state (70_reset_and_hazards R290, R293,
R305). -/

namespace Sys2Proof.Machine

/-! ## Reset from outside (70_reset_and_hazards R290, R291) -/

/-- Settles O17: the reset is taken whether or not a fault is recorded. -/
theorem externalResetRestoresEverything : Obligations.ExternalResetRestoresEverything := by
  intro s launch rest hc hm
  rw [step_eq hc hm]
  exact State.take_of_took (fun hr => by cases hr) (.externalReset (s.withMoves rest) launch)

/-! ## Software under a program (70_reset_and_hazards R293) -/

/-- The operation at the position of a callback's routine. -/
theorem State.nextOp_of_callback {s : State} {pr : Program} {r : Routine} {k : Nat} (hp : s.program = some pr)
    (hi : s.isr = .callback k) (hr : pr.callbacks.lookup (s.slot k).cb = some r) : s.nextOp = r[s.cbPos]? := by
  simp only [State.nextOp, State.currentRoutine, State.position, hp, hi, hr, Option.bind_some]

/-- The operation at the position of the initialisation routine. -/
theorem State.nextOp_of_init {s : State} {pr : Program} (hp : s.program = some pr) (hi : s.isr = .none)
    (hm : s.main = .init) : s.nextOp = pr.init[s.mainPos]? := by
  simp only [State.nextOp, State.currentRoutine, State.position, hp, hi, hm, Option.bind_some]

/-- The operation at the position of a handler's routine. -/
theorem State.nextOp_of_handler {s : State} {pr : Program} {r : Routine} {b : Fin 32} (hp : s.program = some pr)
    (hi : s.isr = .none) (hm : s.main = .handler b) (hr : pr.handlers.lookup (s.cfg.handler b) = some r) :
    s.nextOp = r[s.mainPos]? := by
  simp only [State.nextOp, State.currentRoutine, State.position, hp, hi, hm, hr, Option.bind_some]

theorem State.advance_of_callback {s : State} {k : Nat} (hi : s.isr = .callback k) :
    s.advance = { s with cbPos := s.cbPos + 1 } := by
  simp only [State.advance, hi]

theorem State.advance_of_none {s : State} (hi : s.isr = .none) : s.advance = { s with mainPos := s.mainPos + 1 } := by
  simp only [State.advance, hi]

/-- Software that a program fixes issues the next operation of its routine, the position already moved on (10_state
R52). -/
theorem State.take_routine {s : State} {p : OpWords} (hf : s.fault.any = false) (hr : s.softwareRuns)
    (hn : s.nextOp = some p) : s.take .routine = s.advance.issue p := by
  have hp : s.program.isSome = true := by
    cases hp : s.program with
    | none => rw [State.nextOp, hp] at hn; cases hn
    | some pr => rfl
  simp [State.take, State.allows, State.perform, State.issueNext, hf, hp, hn, State.ready_of_softwareRuns hr]

/-- The step of software under a program, in any of its contexts. -/
theorem step_routine {s : State} {rest : List Move} {p : OpWords} {i : Instr} (hw : s.willTake .routine rest)
    (hr : s.softwareRuns) (hn : s.nextOp = some p) (hd : decodeOp p = .ok i) :
    step s = exec i (s.advance.withMoves rest) := by
  have hf : s.fault.any = false := (FaultSet.any_eq_false_iff _).mpr hw.2.1
  have htake : (s.withMoves rest).take .routine = (s.withMoves rest).advance.issue p :=
    State.take_routine (s := s.withMoves rest) hf hr hn
  rw [step_of_willTake hw, htake, State.issue, hd, State.advance_withMoves]

/-- Settles O9, by the context that software runs in. -/
theorem stepRunsTheRoutinesNextOperation : Obligations.StepRunsTheRoutinesNextOperation := by
  intro s rest pr r p i hw hp hd
  refine ⟨fun k hi hr hop => ?_, fun hi hm hop => ?_, fun b hi hm hr hop => ?_⟩
  · rw [step_routine hw (.inl ⟨k, hi⟩) ((State.nextOp_of_callback hp hi hr).trans hop) hd,
      State.advance_of_callback hi]
  · rw [step_routine hw (.inr ⟨hi, .inl hm⟩) ((State.nextOp_of_init hp hi hm).trans hop) hd,
      State.advance_of_none hi]
  · rw [step_routine hw (.inr ⟨hi, .inr ⟨b, hm⟩⟩) ((State.nextOp_of_handler hp hi hm hr).trans hop) hd,
      State.advance_of_none hi]

/-! ## Enabling (10_state R52) -/

theorem State.ready_disp_iff (s : State) : s.ready .disp = true ↔ s.isr = .none ∧ s.scanning := by
  cases hi : s.isr <;> cases hm : s.main <;> simp [State.ready, State.scanning, hi, hm]

theorem State.ready_tseq_iff (s : State) : s.ready .tseq = true ↔ ∃ i, s.isr = .tick i := by
  cases hi : s.isr <;> simp [State.ready, hi]

theorem State.ready_irq_iff (s : State) (src : IrqSource) :
    s.ready (.irq src) = true ↔ s.isr = .none ∧ s.ie = true ∧ s.pending src = true := by
  simp [State.ready, and_assoc]

/-- An agent is enabled exactly under its condition in the table of 10_state R52. -/
theorem State.enabled_iff (s : State) (g : Agent) :
    s.enabled g = true ↔ s.fault.any = false ∧ s.agentCondition g := by
  rw [State.enabled, Bool.and_eq_true, Bool.not_eq_true']
  refine and_congr_right fun _ => ?_
  cases g with
  | sw => exact s.ready_sw_iff
  | disp => exact s.ready_disp_iff
  | irq src => exact s.ready_irq_iff src
  | tseq => exact s.ready_tseq_iff
  | ticksrc => exact iff_of_true rfl trivial
  | per t => exact Iff.rfl

/-! ## A tick and its ISR over stopped slots (40_timer R147, R149; 60_exceptions R258, R262) -/

/-- A tick whose interrupt is taken at once. -/
theorem State.follow_tickEntry {s : State} (hc : s.cfg.wf = true) (hf : s.fault.any = false) (hisr : s.isr = .none)
    (hie : s.ie = true) (ms : List Move) :
    s.follow (.event 0xE0000000#32 :: .interrupt .tick :: ms) = (s.enterInterrupt .tick).follow ms := by
  have htick := State.take_of_took (fun _ => hf) (.tick s (w := 0xE0000000#32) (by decide))
  have hentry := State.take_of_took (s := { s with tickPend := true }) (fun _ => hf) (.tickEntry _ hisr hie rfl)
  exact (State.follow_cons hc htick _).trans (State.follow_cons (s := { s with tickPend := true }) hc hentry ms)

/-- The tick ISR from `Tick(i)` on, when no slot runs: each slot step passes over its slot, and the final step re-arms and
returns. -/
theorem State.follow_tickScans_of_stopped {s : State} {i k : Nat} (hc : s.cfg.wf = true) (hf : s.fault.any = false)
    (hstop : ∀ j, (s.slot j).run = false) (hisr : s.isr = .tick i) (hk : i + k = s.cfg.nTimers) :
    s.follow (List.replicate (k + 1) .tickScan) = .next (s.tickFinal.withMoves []) := by
  induction k generalizing s i with
  | zero =>
    have took := State.Took.tickScan s i hisr
    rw [State.tickScan, if_neg (by omega)] at took
    exact State.follow_cons hc (State.take_of_took (fun _ => hf) took) []
  | succ k ih =>
    have hcounts : s.counts i = false := by rw [State.counts, hstop i, Bool.and_false]
    have took := State.Took.tickScan s i hisr
    rw [State.tickScan, if_pos (by omega), State.tickSlot_of_not_counts hcounts] at took
    rw [List.replicate_succ, State.follow_cons hc (State.take_of_took (fun _ => hf) took)]
    have hk' : i + 1 + k = s.cfg.nTimers := by omega
    exact ih (s := { s with isr := .tick (i + 1) }) hc hf hstop rfl hk'

/-! ## The quiescent state (70_reset_and_hazards R305) -/

theorem State.Quiescent.fault_any {s : State} (q : s.Quiescent) : s.fault.any = false :=
  (FaultSet.any_eq_false_iff _).mpr q.fault

theorem State.Quiescent.atRest {s : State} (q : s.Quiescent) (t : Bus) : (s.xport t).atRest := by
  cases t with
  | a => exact q.busA
  | b => exact q.busB

theorem State.Quiescent.pending {s : State} (q : s.Quiescent) (src : IrqSource) : s.pending src = false := by
  cases src with
  | tick => exact q.tickPend
  | bc t => obtain ⟨-, -, hb⟩ := q.atRest t; exact hb

/-- No slot of the pool runs, and none beyond it (log 11). -/
theorem State.Quiescent.slot_run {s : State} (q : s.Quiescent) (i : Nat) : (s.slot i).run = false := by
  rw [State.slot]
  rcases Nat.lt_or_ge i s.slots.length with hi | hi
  · rw [List.getD_eq_getElem _ _ hi]; exact q.slots _ (List.getElem_mem hi)
  · rw [List.getD_eq_default _ _ hi]; rfl

theorem State.Quiescent.eventReady {s : State} (q : s.Quiescent) (b : Fin 32) : s.eventReady b = false := by
  rw [State.eventReady, q.events, BitVec.getLsbD_zero, Bool.and_false]

/-- In a quiescent state only the scan and the tick source have a step. -/
theorem State.Quiescent.agentCondition_iff {s : State} (q : s.Quiescent) (g : Agent) :
    s.agentCondition g ↔ g = .disp ∨ g = .ticksrc := by
  cases g with
  | sw =>
    obtain ⟨b, hm⟩ := q.main
    exact iff_of_false (fun h => State.not_scan_of_softwareRuns h q.isr b hm) (by simp)
  | disp => exact iff_of_true ⟨q.isr, q.main⟩ (.inl rfl)
  | irq src => simp [State.agentCondition, q.pending src]
  | tseq => simp [State.agentCondition, q.isr]
  | ticksrc => exact iff_of_true trivial (.inr rfl)
  | per t => obtain ⟨-, hinfl, -⟩ := q.atRest t; simp [State.agentCondition, hinfl]

/-- A scan step finds no event and moves on. -/
theorem State.Quiescent.follow_dispatcher {s : State} (q : s.Quiescent) (hc : s.cfg.wf = true) :
    ∃ b, s.follow [.dispatcher] = .next { s with moves := [], main := .scan b } := by
  obtain ⟨b, hm⟩ := q.main
  have took := State.Took.scan s b q.isr hm
  rw [State.scanBit_of_not_ready (q.eventReady b)] at took
  exact ⟨b + 1, State.follow_cons hc (State.take_of_took (fun _ => q.fault_any) took) []⟩

/-- A tick, its interrupt and the whole ISR re-arm the tick timer; the drain scan is not masked, so `IE` is back at 1. -/
theorem State.Quiescent.follow_tick {s : State} (q : s.Quiescent) (h : s.Inv) :
    s.follow ([.event 0xE0000000#32, .interrupt .tick] ++ List.replicate (s.cfg.nTimers + 1) .tickScan)
      = .next { s with moves := [], cmp := s.cmp + s.cfg.pTick } := by
  obtain ⟨b, hm⟩ := q.main
  obtain ⟨-, -, -, -, -, hunmasked⟩ := h.context
  have hie : s.ie = true := hunmasked b hm q.isr q.fault_any
  have hreturned : (s.enterInterrupt .tick).tickFinal.withMoves []
      = { s with moves := [], cmp := s.cmp + s.cfg.pTick } := by
    show ({ s with tickPend := false, isr := .none, ie := true, cmp := s.cmp + s.cfg.pTick, moves := [] } : State) = _
    rw [← q.tickPend, ← q.isr, ← hie]
  calc s.follow ([.event 0xE0000000#32, .interrupt .tick] ++ List.replicate (s.cfg.nTimers + 1) .tickScan)
      = (s.enterInterrupt .tick).follow (List.replicate (s.cfg.nTimers + 1) .tickScan) :=
        State.follow_tickEntry h.config q.fault_any q.isr hie _
    _ = .next ((s.enterInterrupt .tick).tickFinal.withMoves []) :=
        State.follow_tickScans_of_stopped (s := s.enterInterrupt .tick) h.config q.fault_any q.slot_run rfl
          (Nat.zero_add _)
    _ = .next { s with moves := [], cmp := s.cmp + s.cfg.pTick } := by rw [hreturned]

/-- Settles O59. -/
theorem quiescentStateOnlyScansAndTicks : Obligations.QuiescentStateOnlyScansAndTicks := by
  intro s h q
  refine ⟨fun g => ?_, q.follow_dispatcher h.config, q.follow_tick h⟩
  rw [s.enabled_iff, q.agentCondition_iff]
  exact and_iff_right q.fault_any

end Sys2Proof.Machine
end
